-- ==== Sys2Proof/Word.lean ====
section
/-!
DEFINITION. The word types of the block: the byte of the lanes and the 32-bit register and table entries
(spec/00_scope.md R8, R10).
-/

namespace Sys2Proof

/-- One octet of a byte sequence, one lane (R8, R10). -/
abbrev Byte := BitVec 8

/-- The width of `crc` and of a table entry (R8, R21, R91). -/
abbrev Word32 := BitVec 32

/-- The 3-bit field `req_op` (R50). -/
abbrev OpCode := BitVec 3

end Sys2Proof
end

