-- ==== Sys2Proof/Config.lean ====
section
/-!
DEFINITION. What is fixed when a block is built: the open parameters `K` and `S` of spec/00_scope.md R6 and R7, and what
follows from them. The spec leaves no value open beside these two (spec/92_eei_decisions.md, "Open parameters"), so
there is no opaque constant here. Where the two parameters are kept is log entry 2.
-/

namespace Sys2Proof

/-- A parameter's value: a natural number, or the spec's `omega`, "no bound" (R6, R7, R13). -/
inductive Bound where
  | finite (n : Nat)
  | omega
  deriving DecidableEq, Repr

/-- Is `n` at most the bound? Everything is at most `omega`. -/
def Bound.admits : Bound → Nat → Bool
  | .finite m, n => decide (n ≤ m)
  | .omega, _ => true

/-- The larger of two bounds; `omega` as soon as one of them is (R7). -/
def Bound.join : Bound → Bound → Bound
  | .finite a, .finite b => .finite (max a b)
  | _, _ => .omega

/-- The parameters of one block: `K`, the value width in bytes, and `S`, the largest slot size (R6, R7). -/
structure Config where
  K : Bound
  S : Bound
  deriving DecidableEq, Repr

/-- `LMAX = max(K, S)`: the number of byte lanes and the largest `req_len` (R7). -/
def Config.lmax (c : Config) : Bound :=
  Bound.join c.K c.S

/-- The constraint of R6 on `K`: at least 4, or `omega`. `S` has no constraint (R7). -/
def Config.wf (c : Config) : Bool :=
  match c.K with
  | .finite k => decide (4 ≤ k)
  | .omega => true

/-- The spec's reference configuration (R6, R7). -/
def Config.reference : Config :=
  { K := .finite 8, S := .finite 8 }

/-- The width of a field that holds every value from 0 to `m`, and at least one bit:
`max(1, ceil(log2(m + 1)))` (spec/30_encoding.md R50, `SZW` and `LNW`). -/
def fieldBits (m : Nat) : Nat :=
  Nat.log2 m + 1

end Sys2Proof
end

