-- ==== Sys2Proof/Syntax.lean ====
section
/-!
DEFINITION. The five commands of the block, one constructor per row of spec/opcode_table.json, each with the fields its
format reads (spec/30_encoding.md R52, R53). A format `B` command carries `req_len` and the lanes below it (log entry 11).
-/

namespace Sys2Proof

/-- The commands of R53. The reserved codes 0, 6 and 7 are none of them (R59). -/
inductive Instr where
  /-- INT.PACK, format `P`: the integer `req_val` and the slot size `req_size` (R75). -/
  | intPack (n size : Nat)
  /-- INT.UNPACK, format `B`: `req_len` and the lanes `req_data[0 .. req_len-1]` (R79). -/
  | intUnpack (len : Nat) (lanes : List Byte)
  /-- CRC.INIT, format `N` (R94). -/
  | crcInit
  /-- CRC.APPEND, format `B`: `req_len` and the lanes `req_data[0 .. req_len-1]` (R96). -/
  | crcAppend (len : Nat) (lanes : List Byte)
  /-- CRC.FINAL, format `N` (R100). -/
  | crcFinal
  deriving DecidableEq, Repr

end Sys2Proof
end

