-- ==== Sys2Proof/WellFormed.lean ====
section
/-!
DEFINITION. Which operands the request fields of a block can carry (spec/30_encoding.md R50, R51), and the well-formed
commands made of them. A value above `S` or `LMAX` that its field can hold is well formed: it is executed and answered
with an error status (R54).
-/

namespace Sys2Proof

/-- `req_val` has `8*K` bits (R6, R50). -/
def valueFits (c : Config) (n : Nat) : Bool :=
  match c.K with
  | .finite k => decide (n < 2 ^ (8 * k))
  | .omega => true

/-- `req_size` has `SZW` bits (R50); with `K` or `S` equal to `omega` the command is a record and the size a natural
number (R51, log entry 12). -/
def sizeFits (c : Config) (size : Nat) : Bool :=
  match c.K, c.S with
  | .finite _, .finite m => decide (size < 2 ^ fieldBits m)
  | _, _ => true

/-- `req_len` has `LNW` bits (R50); with `LMAX = omega` it is the length of the list of lanes, which bounds nothing
(spec/20_memory.md R32). -/
def lenFits (c : Config) (len : Nat) : Bool :=
  match c.lmax with
  | .finite m => decide (len < 2 ^ fieldBits m)
  | .omega => true

/-- How many lanes a format `B` command with this `req_len` reads: those below `req_len` that exist (R32, R52). -/
def lanesRead (c : Config) (len : Nat) : Nat :=
  match c.lmax with
  | .finite m => min len m
  | .omega => len

/-- A command that some request of a block with parameters `c` stands for. -/
def Instr.wf (c : Config) : Instr → Bool
  | .intPack n size => valueFits c n && sizeFits c size
  | .intUnpack len lanes => lenFits c len && decide (lanes.length = lanesRead c len)
  | .crcInit => true
  | .crcAppend len lanes => lenFits c len && decide (lanes.length = lanesRead c len)
  | .crcFinal => true

end Sys2Proof
end

