-- ==== Sys2Proof/Decode.lean ====
section
/-!
DEFINITION. The request record of the command port and its packed word `REQ` (spec/30_encoding.md R50, R51), the decoder
(R52 to R54, R59), total on every request and on every word and rejecting by name, and the encoder written from the same
tables.
-/

namespace Sys2Proof

/-- One transfer on the command port: the five fields of R50. -/
structure Request where
  op    : OpCode
  size  : Nat
  len   : Nat
  val   : Nat
  lanes : List Byte
  deriving DecidableEq, Repr

/-- Why a request or a word stands for no command. -/
inductive DecodeError where
  /-- `req_op` is 0, 6 or 7 (R59): the block answers `ERR_ILLEGAL`. -/
  | reservedOpcode (op : OpCode)
  /-- With `K` or `S` equal to `omega` there is no packed word (R51). -/
  | noPackedWord
  /-- The number has a bit above the packed word of this block (R51). -/
  | wordTooWide
  deriving DecidableEq, Repr

/-- The block has this many lanes; with `LMAX = omega` the lanes are a list of length `req_len` (R32). -/
def laneCountFits (c : Config) (len count : Nat) : Bool :=
  match c.lmax with
  | .finite m => decide (count = m)
  | .omega => decide (count = len)

/-- Can the command port of a block with parameters `c` carry this request (R50, R51)? -/
def Request.presentable (c : Config) (r : Request) : Bool :=
  sizeFits c r.size && lenFits c r.len && valueFits c r.val && laneCountFits c r.len r.lanes.length

/-- The op-code map and the fields each format reads (R52, R53); codes 0, 6 and 7 are reserved (R59). Whether the
operand is legal is the second step of R54 and belongs to the command's meaning. -/
def decode (r : Request) : Except DecodeError Instr :=
  match r.op.toNat with
  | 1 => .ok (.intPack r.val r.size)
  | 2 => .ok (.intUnpack r.len (r.lanes.take r.len))
  | 3 => .ok .crcInit
  | 4 => .ok (.crcAppend r.len (r.lanes.take r.len))
  | 5 => .ok .crcFinal
  | _ => .error (.reservedOpcode r.op)

/-- The field of `n` bits from bit `lo` up, read as an unsigned number (R9, R55). -/
def bitsAt (w lo n : Nat) : Nat :=
  (w >>> lo) % 2 ^ n

/-- `count` lanes of 8 bits each from bit `lo` up, lane 0 lowest (R51). -/
def lanesAt (w lo count : Nat) : List Byte :=
  (List.range count).map fun i => BitVec.ofNat 8 (w >>> (lo + 8 * i))

/-- Where `req_len` begins in `REQ` (R51). -/
def lenOffset (S : Nat) : Nat :=
  3 + fieldBits S

/-- Where `req_val` begins in `REQ` (R51). -/
def valOffset (K S : Nat) : Nat :=
  lenOffset S + fieldBits (max K S)

/-- Where the lanes begin in `REQ` (R51). -/
def laneOffset (K S : Nat) : Nat :=
  valOffset K S + 8 * K

/-- The number of bits of `REQ` (R51). -/
def reqBits (K S : Nat) : Nat :=
  laneOffset K S + 8 * max K S

/-- The request that a packed word holds, field by field (R51). -/
def Request.ofWord (c : Config) (w : Nat) : Except DecodeError Request :=
  match c.K, c.S with
  | .finite K, .finite S =>
    if w < 2 ^ reqBits K S then
      .ok { op := BitVec.ofNat 3 w
            size := bitsAt w 3 (fieldBits S)
            len := bitsAt w (lenOffset S) (fieldBits (max K S))
            val := bitsAt w (valOffset K S) (8 * K)
            lanes := lanesAt w (laneOffset K S) (max K S) }
    else .error .wordTooWide
  | _, _ => .error .noPackedWord

/-- The lanes as one number, lane 0 lowest (R51, R56). -/
def lanesNumber : List Byte → Nat
  | [] => 0
  | b :: rest => b.toNat + 2 ^ 8 * lanesNumber rest

/-- The packed word of a request: the fields concatenated with `req_op` lowest (R51). -/
def Request.toWord (c : Config) (r : Request) : Except DecodeError Nat :=
  match c.K, c.S with
  | .finite K, .finite S =>
    .ok (r.op.toNat + 2 ^ 3 * r.size + 2 ^ lenOffset S * r.len + 2 ^ valOffset K S * r.val
          + 2 ^ laneOffset K S * lanesNumber r.lanes)
  | _, _ => .error .noPackedWord

/-- The decoder on packed words. -/
def decodeWord (c : Config) (w : Nat) : Except DecodeError Instr :=
  match Request.ofWord c w with
  | .ok r => decode r
  | .error e => .error e

/-- A byte sequence on the lanes of a block: zero above its length; with `LMAX = omega` the list itself (R32). -/
def onLanes (lmax : Bound) (b : List Byte) : List Byte :=
  match lmax with
  | .finite m => b ++ List.replicate (m - b.length) 0#8
  | .omega => b

/-- The request that stands for a command, its unread fields zero (R52, R53). With `LMAX = omega` a format `N` or `P`
command is sent with no lanes. -/
def encode (c : Config) : Instr → Request
  | .intPack n size => { op := 1#3, size := size, len := 0, val := n, lanes := onLanes c.lmax [] }
  | .intUnpack len lanes => { op := 2#3, size := 0, len := len, val := 0, lanes := onLanes c.lmax lanes }
  | .crcInit => { op := 3#3, size := 0, len := 0, val := 0, lanes := onLanes c.lmax [] }
  | .crcAppend len lanes => { op := 4#3, size := 0, len := len, val := 0, lanes := onLanes c.lmax lanes }
  | .crcFinal => { op := 5#3, size := 0, len := 0, val := 0, lanes := onLanes c.lmax [] }

/-- The packed word of a command (R51). -/
def encodeWord (c : Config) (i : Instr) : Except DecodeError Nat :=
  Request.toWord c (encode c i)

/-- The command the decoder reads from the low `nbits` bits of `w`, every bit above them zero, as a packed word of the
reference configuration (R51: the op-code table's mask is against the low bits of `REQ`). -/
def decodeTableWord (nbits w : Nat) : Option Instr :=
  match decodeWord Config.reference (w % 2 ^ nbits) with
  | .ok i => some i
  | .error _ => none

/-- The request whose packed word has the low `nbits` bits of `w` and zeros above. A block with no packed word gets the
record with that op code and every other field empty (R51, log entry 10). -/
def tableRequest (c : Config) (nbits w : Nat) : Request :=
  match Request.ofWord c (w % 2 ^ nbits) with
  | .ok r => r
  | .error _ => { op := BitVec.ofNat 3 (w % 2 ^ nbits), size := 0, len := 0, val := 0, lanes := onLanes c.lmax [] }

end Sys2Proof
end

