-- ==== Sys2Proof/Machine/State.lean ====
section
/-!
DEFINITION. `Block` is the state of the block, exactly the one register `crc` (spec/10_state.md R20, R21). `Bench` is what
10_state.md section 2 calls constants, inputs and outputs of one step and not state: the parameters the block was built with
(log entry 2), the host's command list (log entry 1) and the responses (log entry 3). `State` puts the two side by side,
because the step of `Host.Core` takes nothing but a state; the block's own step, which takes the bench's part as arguments, is
`blockStep` in Machine/Block.lean.
-/

namespace Sys2Proof.Machine

open Sys2Proof

/-- The field `rsp_status` (spec/30_encoding.md R57). -/
inductive Status where
  /-- 0: the command did what its rule says. -/
  | ok
  /-- 1: reserved op code (spec/60_exceptions.md R112). -/
  | errIllegal
  /-- 2: `req_size > S` or `req_len > LMAX` (R113). -/
  | errOperand
  /-- 3: the value of INT.UNPACK does not fit `8*K` bits (R116). -/
  | errRange
  deriving DecidableEq, Repr

/-- One transfer on the response port: the four fields of R56. -/
structure Response where
  status : Status
  len    : Nat
  val    : Nat
  lanes  : List Byte
  deriving DecidableEq, Repr

/-- What the host does to the block. -/
inductive Input where
  /-- One command on the command port (R50). -/
  | command (r : Request)
  /-- `rst` is asserted and released; `cut` is the command that had been accepted and not yet answered when it was
  asserted, if there was one (spec/70_reset_and_hazards.md R130, log entry 6). -/
  | reset (cut : Option Request)
  deriving DecidableEq, Repr

/-- Why a step stops with a fault. The block has no such event: an error is a status in a response and the block goes on
(R111, R114), so this type has no constructor (log entry 13). -/
inductive Fault where
  deriving DecidableEq, Repr

/-- Why a step has no meaning to give. -/
inductive Refusal where
  /-- Raised by `exec` for a command without a meaning; safe. Every command has one, so nothing raises it. -/
  | notModelled (mnemonic : String)
  /-- Raised by `step` when the host's list holds a request that no command port with the block's parameters can carry
  (a field wider than R50 gives it, or a wrong number of lanes); safe: no hardware can be sent it (log entry 4). -/
  | unpresentable
  deriving DecidableEq, Repr

/-- The state of the block: one 32-bit vector and nothing else (R20). -/
structure Block where
  /-- The CRC accumulator (R21). -/
  crc : Word32
  deriving DecidableEq, Repr

/-- What one command does to the block: the state after it and its response (R40). -/
structure Reply where
  block    : Block
  response : Response
  deriving DecidableEq, Repr

/-- What stands around the block and is no state of it (spec/10_state.md section 2). -/
structure Bench where
  /-- The parameters the block was built with; no command reads them as data or changes them (R25). -/
  cfg       : Config
  /-- What the host has still to send, oldest first (R146). -/
  inputs    : List Input
  /-- The responses delivered so far, oldest first (R40, R146); nothing reads them. -/
  responses : List Response
  deriving DecidableEq, Repr

/-- The block on its bench: what the host's interface runs. -/
structure State extends Block, Bench
  deriving DecidableEq, Repr

/-- The block right after reset: all ones (R28, R130). -/
def Block.reset : Block :=
  { crc := 0xFFFFFFFF#32 }

/-- A block with parameters `c` right after reset, with a host that is going to send `inputs` (R146). -/
def State.start (c : Config) (inputs : List Input) : State :=
  ⟨Block.reset, { cfg := c, inputs := inputs, responses := [] }⟩

/-- The block of the reference configuration right after reset, nothing queued and nothing answered. -/
def State.reset : State :=
  State.start Config.reference []

end Sys2Proof.Machine
end

