-- ==== Sys2Proof/Machine/Ops.lean ====
section
/-!
DEFINITION. The named operations: the responses; the one way an error is answered (spec/60_exceptions.md R114, the block's
whole exception entry; there is no return from it, R119), which like every effect of a command takes the parameters and the
block's state as arguments (spec/10_state.md section 2); and, on the whole state, the register `crc`, the response port and the
host's list. The block has no memory (spec/20_memory.md R30), so there is no operation on memory (log entry 9).
-/

namespace Sys2Proof.Machine

open Sys2Proof

/-- Every value a meaning or a step answers. -/
abbrev Answer := Host.Outcome State Fault Refusal

/-- The value of `crc` after reset and after CRC.INIT (R28, R94). -/
def crcStart : Word32 := 0xFFFFFFFF#32

/-- Write the register. -/
def setCrc (v : Word32) (s : State) : State :=
  { s with crc := v }

/-- Deliver a response after all earlier ones (R40, R56). -/
def deliver (r : Response) (s : State) : State :=
  { s with responses := s.responses ++ [r] }

/-- A response whose result is an integer and whose lanes are all zero (R58). -/
def valueResponse (c : Config) (st : Status) (v : Nat) : Response :=
  { status := st, len := 0, val := v, lanes := onLanes c.lmax [] }

/-- A response whose result is a byte sequence, zero on the lanes above it (R32, R58). -/
def bytesResponse (c : Config) (b : List Byte) : Response :=
  { status := .ok, len := b.length, val := 0, lanes := onLanes c.lmax b }

/-- Status `OK` with no result. -/
def doneResponse (c : Config) : Response :=
  valueResponse c .ok 0

/-- The response of an error: the status, and zero in every result field (R58, R114). -/
def errorResponse (c : Config) (st : Status) : Response :=
  valueResponse c st 0

/-- A command that writes no state. -/
def keepBlock (x : Response) (b : Block) : Reply :=
  { block := b, response := x }

/-- `raise <Err>` (R11, R114): the response of the error; no state is written, nothing is saved, and the block is ready for
the next command. -/
def raiseError (c : Config) (st : Status) (b : Block) : Reply :=
  keepBlock (errorResponse c st) b

/-- Reset (R130), on the block itself. -/
def blockReset (_b : Block) : Block :=
  { crc := crcStart }

/-- What a command does to the block, put back on the bench: its state is written and its response delivered. -/
def settle (p : Reply) (s : State) : Answer :=
  .next (deliver p.response (setCrc p.block.crc s))

/-- Reset (R130): `crc` takes its start value and no response is delivered; a command cut by it leaves no effect. -/
def resetBlock (_cut : Option Request) (s : State) : State :=
  setCrc (blockReset s.toBlock).crc s

/-- The oldest thing the host has still to send, and the state with it taken off the list. -/
def takeInput (s : State) : Option (Input × State) :=
  match s.inputs with
  | [] => none
  | i :: rest => some (i, { s with inputs := rest })

/-- Put a command before everything else the host has still to send. -/
def sendFirst (r : Request) (s : State) : State :=
  { s with inputs := .command r :: s.inputs }

/-- The code of a status on `rsp_status` (R57). -/
def Status.code : Status → Nat
  | .ok => 0
  | .errIllegal => 1
  | .errOperand => 2
  | .errRange => 3

/-- Where `rsp_val` begins in `RSP` (R56). -/
def rspValOffset (K S : Nat) : Nat :=
  2 + fieldBits (max K S)

/-- Where the lanes begin in `RSP` (R56). -/
def rspLaneOffset (K S : Nat) : Nat :=
  rspValOffset K S + 8 * K

/-- The packed word `RSP`: status lowest, then length, value and lanes, lane 0 lowest (R56). Without a bound there is
none. -/
def Response.toWord (c : Config) (r : Response) : Option Nat :=
  match c.K, c.S with
  | .finite K, .finite S =>
    some (r.status.code + 2 ^ 2 * r.len + 2 ^ rspValOffset K S * r.val
           + 2 ^ rspLaneOffset K S * lanesNumber r.lanes)
  | _, _ => none

end Sys2Proof.Machine
end

