-- ==== Sys2Proof/Machine/Operands.lean ====
section
/-!
DEFINITION. The operand forms (spec/30_encoding.md R52, R55): the byte sequence of a format `B` command. The operands of
format `P` are the plain values of their fields, and format `N` has none.
-/

namespace Sys2Proof.Machine

open Sys2Proof

/-- The byte-sequence operand: `b[i] = req_data[i]` for `i < req_len`; the lanes from `req_len` up are ignored
(spec/20_memory.md R32, R79, R96). -/
def byteOperand (len : Nat) (lanes : List Byte) : List Byte :=
  lanes.take len

end Sys2Proof.Machine
end

