-- ==== Sys2Proof/Machine/Flags.lean ====
section
/-!
DEFINITION. The tests that decide a command's status (spec/30_encoding.md R54, spec/60_exceptions.md R113, R116). The block
has no flags, condition codes or predicates (spec/10_state.md R24); a status travels with its response and is not kept.
-/

namespace Sys2Proof.Machine

open Sys2Proof

/-- `req_size > S` (R113). -/
def sizeTooLarge (c : Config) (size : Nat) : Bool :=
  !c.S.admits size

/-- `req_len > LMAX` (R113). -/
def lenTooLarge (c : Config) (len : Nat) : Bool :=
  !c.lmax.admits len

/-- `v >= 2^(8*K)`; never with `K = omega` (R79, R116). -/
def outOfRange (c : Config) (v : Nat) : Bool :=
  match c.K with
  | .finite k => decide (2 ^ (8 * k) ≤ v)
  | .omega => false

end Sys2Proof.Machine
end

