-- ==== Sys2Proof/Machine/CrcUnit.lean ====
section
/-!
DEFINITION. The CRC unit: the fold of spec/41_crc32.md R92 and R95, the checksum function of R103, and the meanings of
CRC.INIT (R94), CRC.APPEND (R96) and CRC.FINAL (R100). The shift is the logical one (R9, R99, spec/90_conflicts.md C3).
-/

namespace Sys2Proof.Machine

open Sys2Proof

/-- Fold one byte: `(c >> 8) ^ TAB[(c ^ x) & 0xFF]` (R92). -/
def foldb (c : Word32) (x : Byte) : Word32 :=
  (c >>> 8) ^^^ tab (((c ^^^ x.setWidth 32) &&& 0xFF#32).setWidth 8)

/-- Fold a byte sequence, its first byte first (R95). -/
def fold (c : Word32) (b : List Byte) : Word32 :=
  b.foldl foldb c

/-- The checksum of a message (R103). -/
def crc32 (m : List Byte) : Word32 :=
  ~~~ fold crcStart m

/-- What CRC.INIT does (R94). It does not read the register. -/
def crcInitReply (c : Config) : Reply :=
  { block := { crc := crcStart }, response := doneResponse c }

/-- What CRC.APPEND does (R96): with `req_len > LMAX` no byte is folded. -/
def crcAppendReply (c : Config) (len : Nat) (lanes : List Byte) (b : Block) : Reply :=
  if lenTooLarge c len then raiseError c .errOperand b
  else { block := { crc := fold b.crc (byteOperand len lanes) }, response := doneResponse c }

/-- What CRC.FINAL answers (R100): the complement at 32 bits, zero-extended to the value lane; nothing is written. -/
def crcFinalResponse (c : Config) (b : Block) : Response :=
  valueResponse c .ok (~~~ b.crc).toNat

/-- CRC.INIT (R94). -/
def execCrcInit (s : State) : Answer :=
  settle (crcInitReply s.cfg) s

/-- CRC.APPEND (R96). -/
def execCrcAppend (len : Nat) (lanes : List Byte) (s : State) : Answer :=
  settle (crcAppendReply s.cfg len lanes s.toBlock) s

/-- CRC.FINAL (R100). -/
def execCrcFinal (s : State) : Answer :=
  settle (keepBlock (crcFinalResponse s.cfg s.toBlock) s.toBlock) s

end Sys2Proof.Machine
end

