-- ==== Sys2Proof/Machine/IntUnit.lean ====
section
/-!
DEFINITION. The INT unit: the functions of spec/40_int_pack.md R71 to R74 on natural numbers and byte sequences, and the
meanings of INT.PACK (R75) and INT.UNPACK (R79). The unit has no state (R20): `intPackResponse` and `intUnpackResponse` take
the parameters and the operands, and nothing else.
-/

namespace Sys2Proof.Machine

open Sys2Proof

/-- The natural length: how many bytes `n` takes, at least one; `natlen 0 = 1` (R71, decision D5, log entry 8). -/
def natlen (n : Nat) : Nat :=
  Nat.log2 n / 8 + 1

/-- The last `len` base-256 digits of `n`, most significant first: byte `i` is `(n div 256^(len-1-i)) mod 256`
(R71, R73). -/
def bigEndian (len n : Nat) : List Byte :=
  (List.range len).map fun i => BitVec.ofNat 8 (n / 256 ^ (len - 1 - i))

/-- The natural encoding, the source's `to_bytes` (R71). -/
def natbytes (n : Nat) : List Byte :=
  bigEndian (natlen n) n

/-- The fixed-width encoding, the source's `to_bytes_fixed`: zeros on the left up to `size` bytes, never truncated
(R73). -/
def pack (n size : Nat) : List Byte :=
  if natlen n < size then List.replicate (size - natlen n) 0#8 ++ natbytes n else natbytes n

/-- One step of the recursion from the left of R74. -/
def unpackStep (acc : Nat) (b : Byte) : Nat :=
  256 * acc + b.toNat

/-- The value of a byte sequence, the source's `from_bytes`; the empty sequence is zero (R74). -/
def unpack (b : List Byte) : Nat :=
  b.foldl unpackStep 0

/-- What INT.PACK answers (R75): `max(size, natlen(n))` bytes, also when that is more than `size` (R76). -/
def intPackResponse (c : Config) (n size : Nat) : Response :=
  if sizeTooLarge c size then errorResponse c .errOperand
  else bytesResponse c (bigEndian (max size (natlen n)) n)

/-- What INT.UNPACK answers (R79): `ERR_OPERAND` is tested first, then the range of the value (R80, R115). -/
def intUnpackResponse (c : Config) (len : Nat) (lanes : List Byte) : Response :=
  if lenTooLarge c len then errorResponse c .errOperand
  else if outOfRange c (unpack (byteOperand len lanes)) then errorResponse c .errRange
  else valueResponse c .ok (unpack (byteOperand len lanes))

/-- INT.PACK (R75). -/
def execIntPack (n size : Nat) (s : State) : Answer :=
  settle (keepBlock (intPackResponse s.cfg n size) s.toBlock) s

/-- INT.UNPACK (R79). -/
def execIntUnpack (len : Nat) (lanes : List Byte) (s : State) : Answer :=
  settle (keepBlock (intUnpackResponse s.cfg len lanes) s.toBlock) s

end Sys2Proof.Machine
end

