-- ==== Sys2Proof/Machine/Dispatch.lean ====
section
/-!
DEFINITION. One arm per command, each one call of its meaning.
-/

namespace Sys2Proof.Machine

open Sys2Proof

def exec (i : Instr) (s : State) : Host.Outcome State Fault Refusal :=
  match i with
  | .intPack n size => Sys2Proof.Machine.execIntPack n size s
  | .intUnpack len lanes => Sys2Proof.Machine.execIntUnpack len lanes s
  | .crcInit => Sys2Proof.Machine.execCrcInit s
  | .crcAppend len lanes => Sys2Proof.Machine.execCrcAppend len lanes s
  | .crcFinal => Sys2Proof.Machine.execCrcFinal s

end Sys2Proof.Machine
end

