-- ==== Sys2Proof/Machine/Command.lean ====
section
/-!
DEFINITION. What the block does with one thing the host sends: a request is decoded and executed, or answered
`ERR_ILLEGAL` (spec/30_encoding.md R54), and `rst` resets it (spec/70_reset_and_hazards.md R130).
-/

namespace Sys2Proof.Machine

open Sys2Proof

/-- Decoding in the order of R54: a reserved op code is answered `ERR_ILLEGAL` (R59, R112); every other request is
executed. -/
def runCommand (r : Request) (s : State) : Answer :=
  match decode r with
  | .ok i => exec i s
  | .error _ => settle (raiseError s.cfg .errIllegal s.toBlock) s

/-- One input of the host, already taken off its list. A request that the port cannot carry is refused (log entry 4). -/
def handleInput (i : Input) (s : State) : Answer :=
  match i with
  | .reset cut => .next (resetBlock cut s)
  | .command r => if r.presentable s.cfg then runCommand r s else .refused .unpresentable

end Sys2Proof.Machine
end

