-- ==== Sys2Proof/Machine/Step.lean ====
section
/-!
DEFINITION. One step of the block: it takes the oldest thing the host has still to send, executes it whole and answers it
(spec/20_memory.md R40, spec/70_reset_and_hazards.md R145). With nothing to take it waits (R146, log entry 5).
-/

namespace Sys2Proof.Machine

open Sys2Proof

def step (s : State) : Host.Outcome State Fault Refusal :=
  match takeInput s with
  | none => .next s
  | some (i, t) => handleInput i t

/-- The state with the command of a table word as the very next thing the host sends (log entry 10). -/
def State.withFetchWord (s : State) (nbits w : Nat) : State :=
  sendFirst (tableRequest s.cfg nbits w) s

end Sys2Proof.Machine
end

