-- ==== Sys2Proof/Machine/Block.lean ====
section
/-!
DEFINITION. The block by itself, as spec/10_state.md section 2 asks for it: its state is the one register, the parameters and
the host's input are arguments of its step, and the response is an output of the step. `exec` and `step` are this block on its
bench (Laws/Block.lean).
-/

namespace Sys2Proof.Machine

open Sys2Proof

/-- One command on the block. The INT unit neither reads nor writes its state (R20); CRC.INIT and CRC.APPEND alone write it, and
CRC.APPEND and CRC.FINAL alone read it (R21). -/
def blockExec (c : Config) (i : Instr) (b : Block) : Reply :=
  match i with
  | .intPack n size => keepBlock (intPackResponse c n size) b
  | .intUnpack len lanes => keepBlock (intUnpackResponse c len lanes) b
  | .crcInit => crcInitReply c
  | .crcAppend len lanes => crcAppendReply c len lanes b
  | .crcFinal => keepBlock (crcFinalResponse c b) b

/-- One request on the block, decoded in the order of R54. -/
def blockCommand (c : Config) (r : Request) (b : Block) : Reply :=
  match decode r with
  | .ok i => blockExec c i b
  | .error _ => raiseError c .errIllegal b

/-- One step of the block: its parameters, one input of the host and its state, to the state after it and the response, if
the input gets one (R40, R130). -/
def blockStep (c : Config) (i : Input) (b : Block) : Block × Option Response :=
  match i with
  | .reset _ => (blockReset b, none)
  | .command r => ((blockCommand c r b).block, some (blockCommand c r b).response)

/-- A run (R146): a start state and the host's finite list, to the final state and the list of responses in order. -/
def blockRun (c : Config) (inputs : List Input) (b : Block) : Block × List Response :=
  match inputs with
  | [] => (b, [])
  | i :: rest =>
    let first := blockStep c i b
    let after := blockRun c rest first.1
    (after.1, first.2.toList ++ after.2)

end Sys2Proof.Machine
end

