-- ==== Sys2Proof/Machine/Reference.lean ====
section
/-!
DEFINITION. The second descriptions the spec gives of functions the block computes: the hexadecimal procedure of the source
(spec/40_int_pack.md R72), the positional sum (R74), the generation rule of the table and the bit-serial fold
(spec/41_crc32.md R91, R93). No step uses them; statements say that they agree with what the steps use.
-/

namespace Sys2Proof.Machine

open Sys2Proof

/-- How many hexadecimal digits `n` has: `floor(log16 n) + 1`, and 1 for zero (R72). -/
def hexLength (n : Nat) : Nat :=
  Nat.log 16 n + 1

/-- The hexadecimal digits of `n`, most significant first, zero written as the one digit 0 (R72). -/
def hexDigits (n : Nat) : List Nat :=
  (List.range (hexLength n)).map fun i => n / 16 ^ (hexLength n - 1 - i) % 16

/-- One zero digit in front if the number of digits is odd (R72). -/
def hexPadded (n : Nat) : List Nat :=
  if hexLength n % 2 = 1 then 0 :: hexDigits n else hexDigits n

/-- Each consecutive pair `(hi, lo)` of digits, from the left, becomes the byte `16 * hi + lo` (R72). -/
def pairBytes : List Nat → List Byte
  | hi :: lo :: rest => BitVec.ofNat 8 (16 * hi + lo) :: pairBytes rest
  | _ => []

/-- The source's three-step definition of `to_bytes` (R72). -/
def hexProcedure (n : Nat) : List Byte :=
  pairBytes (hexPadded n)

/-- `sum for i from 0 to len-1 of b[i] * 256^(len-1-i)` (R74). -/
def positionalSum (b : List Byte) : Nat :=
  ((List.range b.length).map fun i => (b.getD i 0).toNat * 256 ^ (b.length - 1 - i)).sum

/-- One shift of the bit-serial register: right by one, and exclusive-or with the polynomial constant if the bit shifted
out was 1 (R91, R93). -/
def shiftStep (d : Word32) : Word32 :=
  if d &&& 1#32 = 1#32 then (d >>> 1) ^^^ 0xEDB88320#32 else d >>> 1

/-- Eight shifts, one for each bit of a byte (R91, R93). -/
def shiftByte (d : Word32) : Word32 :=
  shiftStep (shiftStep (shiftStep (shiftStep (shiftStep (shiftStep (shiftStep (shiftStep d)))))))

/-- The bit-serial form of the fold (R93). -/
def bitSerialFold (c : Word32) (x : Byte) : Word32 :=
  shiftByte (c ^^^ x.setWidth 32)

end Sys2Proof.Machine
end

