-- ==== Sys2Proof/Machine/Pseudo.lean ====
section
/-!
DEFINITION. The pseudo-operations of spec/30_encoding.md R64 to R66 as lists of commands, and the execution of such a list
one command after another (spec/20_memory.md R40). They have no op codes of their own.
-/

namespace Sys2Proof.Machine

open Sys2Proof

/-- `INT.TOBYTES n` is `INT.PACK n, 0` (R64). -/
def intToBytes (n : Nat) : Instr :=
  .intPack n 0

/-- Cut `data` into consecutive pieces of `size` bytes, the last one shorter; `fuel` bounds the number of pieces. -/
def cutInto (fuel size : Nat) (data : List Byte) : List (List Byte) :=
  match fuel, data with
  | 0, _ => []
  | _, [] => []
  | fuel + 1, data => data.take size :: cutInto fuel size (data.drop size)

/-- The slices of R65: pieces of `LMAX` bytes, nothing for empty data; one piece where `LMAX = omega`. -/
def messagePieces (lmax : Bound) (data : List Byte) : List (List Byte) :=
  match lmax with
  | .finite m => cutInto data.length m data
  | .omega => if data.isEmpty then [] else [data]

/-- The CRC.APPEND that carries a byte sequence. -/
def appendPiece (b : List Byte) : Instr :=
  .crcAppend b.length b

/-- `CRC.APPENDS data` (R65). -/
def crcAppends (c : Config) (data : List Byte) : List Instr :=
  (messagePieces c.lmax data).map appendPiece

/-- `CRC32 data` (R66). -/
def crc32Commands (c : Config) (data : List Byte) : List Instr :=
  .crcInit :: (crcAppends c data ++ [.crcFinal])

/-- Execute commands in order, each wholly before the next (R40). -/
def execAll : List Instr → State → Answer
  | [], s => .next s
  | i :: rest, s =>
    match exec i s with
    | .next t => execAll rest t
    | .fault r => .fault r
    | .refused r => .refused r

end Sys2Proof.Machine
end

