-- ==== Sys2Proof/Safety.lean ====
section
/-!
DEFINITION. What counts as a good state and a good run, in the terms the statements use: responses the port can carry
(spec/30_encoding.md R56, R58), inputs the host can send (R50), and the message a run has appended so far
(spec/00_scope.md R13, spec/20_memory.md R40).
-/

namespace Sys2Proof.Machine

open Sys2Proof

/-- How many lanes a response has whose `rsp_len` is `len` (R31, R32). -/
def laneCount (lmax : Bound) (len : Nat) : Nat :=
  match lmax with
  | .finite m => m
  | .omega => len

/-- The response port of a block with parameters `c` can carry the response, its lanes are zero above `rsp_len`, and on
an error every result field is zero (R32, R56, R58). -/
def Response.Deliverable (c : Config) (x : Response) : Prop :=
  c.lmax.admits x.len = true ∧ valueFits c x.val = true ∧ x.lanes.length = laneCount c.lmax x.len ∧
    (∀ b ∈ x.lanes.drop x.len, b = 0#8) ∧
    (x.status ≠ .ok → x.len = 0 ∧ x.val = 0)

/-- The invariant of every step: the parameters are legal (R6) and every response delivered is one that the port can
carry. -/
def State.Good (s : State) : Prop :=
  s.cfg.wf = true ∧ ∀ x ∈ s.responses, x.Deliverable s.cfg

/-- What a host can send to a block with parameters `c` (R50, R130). -/
def Input.Sendable (c : Config) : Input → Prop
  | .command r => r.presentable c = true
  | .reset _ => True

/-- Does the input get a response? Every command does, a reset does not (R40, R130). -/
def Input.answered : Input → Bool
  | .command _ => true
  | .reset _ => false

/-- The message after one more command: emptied by CRC.INIT, lengthened by a CRC.APPEND within `LMAX`, else the same
(R13, R40). -/
def commandMessage (c : Config) (m : List Byte) : Instr → List Byte
  | .crcInit => []
  | .crcAppend len lanes => if lenTooLarge c len then m else m ++ byteOperand len lanes
  | .intPack _ _ => m
  | .intUnpack _ _ => m
  | .crcFinal => m

/-- The message after one more input of the host: emptied by reset (R13, R40). -/
def inputMessage (c : Config) (m : List Byte) : Input → List Byte
  | .reset _ => []
  | .command r =>
    match decode r with
    | .ok i => commandMessage c m i
    | .error _ => m

/-- The message appended since the last CRC.INIT or reset, after a whole list of inputs. -/
def messageAfter (c : Config) (m : List Byte) (inputs : List Input) : List Byte :=
  inputs.foldl (inputMessage c) m

end Sys2Proof.Machine
end

