-- ==== Sys2Proof/Certificates/Slice0/Obligations.lean ====
section
/-!
DEFINITION. The statements for the provers, taken from the numbered rules of spec/. A rule's marks in the spec are kept: where
the spec calls a rule its own decision (`[decision: …]`) the docstring names the decision; where it calls a rule an inference
(`[derived: …]`) or general knowledge, the docstring says so and the statement's basis is 'derived'.
-/

open Sys2Proof Sys2Proof.Machine

/-! ## Reset and the step -/

/-- 10 section 3 (decision D18): after reset `crc = 0xFFFFFFFF`, no command is in progress and no response is delivered, from every
state; the state right after reset holds that value. That `rst` is one input of the host's list, and that the command it cuts is dropped in that
one step, is the model's reading of 70 section 1 (log entry 6). -/
def Obligations.ResetLeavesAllOnes : Prop :=
  State.reset.crc = 0xFFFFFFFF#32 ∧
    ∀ (s : State) (cut : Option Request) (rest : List Input), s.inputs = .reset cut :: rest →
      step s = .next { s with crc := 0xFFFFFFFF#32, inputs := rest }

/-- The spec's inference in 70 section 1 (reset compared with CRC.INIT): both leave the same state but for the response, and
the reset state's register is the one CRC.INIT leaves from any state. -/
def Obligations.ResetAndCrcInitLeaveTheSameRegister : Prop :=
  ∀ (s t : State) (cut : Option Request), exec .crcInit s = .next t →
    t.crc = State.reset.crc ∧ (resetBlock cut s).crc = t.crc ∧ (resetBlock cut s).responses = s.responses ∧
      t.responses.length = s.responses.length + 1

/-- A step runs the decoded command: when the oldest thing the host sends is a request the port can carry and it decodes to
`i`, the step is `exec i` on the state with that request taken off the list. What the list is, is the model's choice (log
entry 1). -/
def Obligations.StepRunsDecodedCommand : Prop :=
  ∀ (s : State) (r : Request) (rest : List Input) (i : Instr), s.inputs = .command r :: rest →
    r.presentable s.cfg = true → decode r = .ok i → step s = exec i { s with inputs := rest }

/-- With nothing to take the block waits and nothing changes (the model's choice, log entry 5). -/
def Obligations.StepWaitsWhenNothingIsSent : Prop :=
  ∀ s : State, s.inputs = [] → step s = .next s

/-- A step stops in exactly one case, a request that no port with the block's parameters can carry (the model's choice, log
entry 4); whatever the port can carry is answered and the block goes on. -/
def Obligations.StepStopsOnlyOnUnpresentableRequests : Prop :=
  ∀ s : State, ((∃ t, step s = .next t) ∨ step s = .refused .unpresentable) ∧
    (step s = .refused .unpresentable ↔
      ∃ r rest, s.inputs = .command r :: rest ∧ r.presentable s.cfg = false)

/-- A word of the op-code table, placed as the very next thing the host sends to a block of the reference configuration, is decoded
and run by the very next step (log entry 10). -/
def Obligations.TableWordRunsNext : Prop :=
  ∀ (s : State) (nbits w : Nat) (i : Instr), s.cfg = Config.reference → decodeTableWord nbits w = some i →
    step (s.withFetchWord nbits w) = exec i s

/-! ## Encodings -/

/-- Packed words of the reference configuration, written out from the bit table of 30 section 1 (they are the words of programs
P3, P7, P8 and P1 of 95 section 3), decode to the command they stand for; codes 0, 6 and 7 to none. -/
def Obligations.SpecWordsDecode : Prop :=
  decodeWord Config.reference 0x1011 = .ok (.intPack 2 2) ∧
    decodeWord Config.reference 0x00000000000001000000000000000000102 = .ok (.intUnpack 2 [0x00, 0x02]) ∧
    decodeWord Config.reference 0x7FFFFFFFFFFFFFFFFFFFFFFFFFFFFFFFFFB = .ok .crcInit ∧
    decodeWord Config.reference 0x00000037B63632B40000000000000000284
      = .ok (.crcAppend 5 [0x68, 0x65, 0x6C, 0x6C, 0x6F]) ∧
    decodeWord Config.reference 0x5 = .ok .crcFinal ∧
    decodeWord Config.reference 0 = .error (.reservedOpcode 0) ∧
    decodeWord Config.reference 6 = .error (.reservedOpcode 6) ∧
    decodeWord Config.reference 0x7FFFFFFFFFFFFFFFFFFFFFFFFFFFFFFFFFF = .error (.reservedOpcode 7)

/-- R53 (decisions D9 and D17): the five codes and their commands; 0, 6 and 7 are reserved. -/
def Obligations.OpcodeMap : Prop :=
  ∀ r : Request,
    (r.op = 0 ∨ r.op = 6 ∨ r.op = 7 → decode r = .error (.reservedOpcode r.op)) ∧
    (r.op = 1 → decode r = .ok (.intPack r.val r.size)) ∧
    (r.op = 2 → decode r = .ok (.intUnpack r.len (r.lanes.take r.len))) ∧
    (r.op = 3 → decode r = .ok .crcInit) ∧
    (r.op = 4 → decode r = .ok (.crcAppend r.len (r.lanes.take r.len))) ∧
    (r.op = 5 → decode r = .ok .crcFinal)

/-- R52 (decisions D8 and D11): format `N` reads `req_op` alone, `P` also `req_val` and `req_size`, `B` also `req_len` and the
lanes below it. Two requests that agree on the fields read take the same step, whatever the other fields hold. -/
def Obligations.UnreadFieldsAreIgnored : Prop :=
  ∀ (s : State) (r r' : Request) (rest : List Input),
    r.presentable s.cfg = true → r'.presentable s.cfg = true → r.op = r'.op →
    (r.op = 1 → r.val = r'.val ∧ r.size = r'.size) →
    (r.op = 2 ∨ r.op = 4 → r.len = r'.len ∧ r.lanes.take r.len = r'.lanes.take r.len) →
    step { s with inputs := .command r :: rest } = step { s with inputs := .command r' :: rest }

/-- Decoding the request that encodes a well-formed command gives the command back, in every configuration, bounded or not. -/
def Obligations.DecodeEncodeRoundTrip : Prop :=
  ∀ (c : Config) (i : Instr), i.wf c = true → decode (encode c i) = .ok i

/-- Headline: in every bounded configuration the packed word of a well-formed command exists, has no bit above the word's width,
and decodes to the command: no operand bit is dropped at any width. -/
def Obligations.PackedWordRoundTrip : Prop :=
  ∀ (K S : Nat) (i : Instr), i.wf { K := .finite K, S := .finite S } = true →
    ∃ w, encodeWord { K := .finite K, S := .finite S } i = .ok w ∧ w < 2 ^ reqBits K S ∧
      decodeWord { K := .finite K, S := .finite S } w = .ok i

/-- The other direction: every packed word is the word of the request read from it, and the port can carry that request. -/
def Obligations.PackedWordKeepsEveryBit : Prop :=
  ∀ K S w : Nat, w < 2 ^ reqBits K S →
    ∃ r, Request.ofWord { K := .finite K, S := .finite S } w = .ok r ∧
      r.presentable { K := .finite K, S := .finite S } = true ∧
      Request.toWord { K := .finite K, S := .finite S } r = .ok w

/-- R51 (decision D8): the fields of `REQ` lie one above the other with `req_op` lowest, `req_val` has `8*K` bits, lane `i` is the
byte `i` of the topmost field, and nothing lies above it; the reference configuration has 139 bits with fields at 3, 7, 11 and
75; with `K` or `S` equal to `omega` there is no packed word. -/
def Obligations.PackedWordLayout : Prop :=
  (∀ (K S : Nat) (r : Request), r.presentable { K := .finite K, S := .finite S } = true →
    ∃ w, Request.toWord { K := .finite K, S := .finite S } r = .ok w ∧
      w % 2 ^ 3 = r.op.toNat ∧
      w / 2 ^ 3 % 2 ^ fieldBits S = r.size ∧
      w / 2 ^ (3 + fieldBits S) % 2 ^ fieldBits (max K S) = r.len ∧
      w / 2 ^ (3 + fieldBits S + fieldBits (max K S)) % 2 ^ (8 * K) = r.val ∧
      (∀ i, i < max K S →
        r.lanes[i]? = some (BitVec.ofNat 8
          (w / 2 ^ (3 + fieldBits S + fieldBits (max K S) + 8 * K + 8 * i)))) ∧
      w < 2 ^ (3 + fieldBits S + fieldBits (max K S) + 8 * K + 8 * max K S)) ∧
    (lenOffset 8 = 7 ∧ valOffset 8 8 = 11 ∧ laneOffset 8 8 = 75 ∧ reqBits 8 8 = 139) ∧
    (∀ (c : Config) (r : Request) (w : Nat), c.K = .omega ∨ c.S = .omega →
      Request.toWord c r = .error .noPackedWord ∧ Request.ofWord c w = .error .noPackedWord)

/-- The widths of R50: `SZW = max(1, ceil(log2(S + 1)))` and the same for `LNW` and `LMAX`, the fewest bits (at least one) that
hold every value from 0 to the bound. -/
def Obligations.FieldWidthsAreFewestBits : Prop :=
  ∀ m : Nat, fieldBits m = max 1 (Nat.clog 2 (m + 1)) ∧ m < 2 ^ fieldBits m ∧
    ∀ w, 1 ≤ w → m < 2 ^ w → fieldBits m ≤ w

/-- What the decoder reads from a request the port can carry is a well-formed command (R50, R54). -/
def Obligations.DecodedCommandIsWellFormed : Prop :=
  ∀ (c : Config) (r : Request) (i : Instr), r.presentable c = true → decode r = .ok i → i.wf c = true

/-! ## The INT unit: functions -/

/-- R71 (decision D5 for `natlen(0) = 1`): `natlen(n)` is the least `L >= 1` with `n < 256^L`; `natbytes(n)` has that many bytes,
byte `i` being `(n div 256^(L-1-i)) mod 256`; the first byte of a positive number is not zero; zero is the one byte `[00]`. -/
def Obligations.NaturalEncoding : Prop :=
  (∀ n : Nat, 1 ≤ natlen n ∧ n < 256 ^ natlen n ∧ ∀ L, 1 ≤ L → n < 256 ^ L → natlen n ≤ L) ∧
    (∀ n : Nat, (natbytes n).length = natlen n ∧
      ∀ i, i < natlen n → ((natbytes n)[i]?).map BitVec.toNat = some (n / 256 ^ (natlen n - 1 - i) % 256)) ∧
    (∀ n : Nat, 0 < n → (natbytes n)[0]? ≠ some 0#8) ∧ natbytes 0 = [0#8] ∧
    natlen 0 = 1 ∧ natlen 255 = 1 ∧ natlen 256 = 2 ∧ natlen 65535 = 2 ∧ natlen 65536 = 3

/-- The spec's inference in 40 section 1: the source's hexadecimal procedure gives the same bytes, for every number. That zero is
written as the one digit 0 is the spec's general knowledge. -/
def Obligations.HexProcedureGivesNaturalEncoding : Prop :=
  ∀ n : Nat, hexProcedure n = natbytes n

/-- R73: `pack(n, size)` is the natural encoding with zeros on the left up to `size` bytes, never shortened; its length is
`max(size, natlen(n))` and in every case byte `i` is the base-256 digit `(n div 256^(len-1-i)) mod 256`. -/
def Obligations.FixedWidthEncoding : Prop :=
  ∀ n size : Nat,
    (natlen n < size → pack n size = List.replicate (size - natlen n) 0#8 ++ natbytes n) ∧
    (size ≤ natlen n → pack n size = natbytes n) ∧
    (pack n size).length = max size (natlen n) ∧
    ∀ i, i < max size (natlen n) →
      ((pack n size)[i]?).map BitVec.toNat = some (n / 256 ^ (max size (natlen n) - 1 - i) % 256)

/-- R74: `unpack(b)` is the sum of `b[i] * 256^(len-1-i)`, equally the recursion from the left, always below `256^len`; the empty
sequence is zero and leading zero bytes add nothing. -/
def Obligations.ValueOfByteSequence : Prop :=
  (∀ b : List Byte, unpack b = positionalSum b ∧ unpack b < 256 ^ b.length) ∧
    unpack [] = 0 ∧
    (∀ (b : List Byte) (x : Byte), unpack (b ++ [x]) = 256 * unpack b + x.toNat) ∧
    ∀ (k : Nat) (b : List Byte), unpack (List.replicate k 0#8 ++ b) = unpack b

/-- The spec's inference in 40 section 4 (round trip, integer side), and its length law. -/
def Obligations.UnpackOfPack : Prop :=
  ∀ n size : Nat, unpack (pack n size) = n ∧ unpack (natbytes n) = n ∧
    ((pack n size).length = size ↔ natlen n ≤ size)

/-- The spec's inference in 40 section 4 (round trip, byte side): packing at the sequence's own length gives it back, except for
the empty sequence, which comes back as one zero byte. -/
def Obligations.PackOfUnpack : Prop :=
  (∀ b : List Byte, 1 ≤ b.length → pack (unpack b) b.length = b) ∧ unpack [] = 0 ∧ pack 0 0 = [0#8]

/-- The spec's inference in 20 section 2 (mixed use): the first `k` bytes of a packed field give the value divided by
`256^(len-k)`, the last `k` bytes the value modulo `256^k`. -/
def Obligations.MixedWidthsArePositional : Prop :=
  ∀ (b : List Byte) (k : Nat), k ≤ b.length →
    unpack (b.take k) = unpack b / 256 ^ (b.length - k) ∧
      unpack (b.drop (b.length - k)) = unpack b % 256 ^ k

/-! ## The INT unit: commands -/

/-- R75: INT.PACK answers `ERR_OPERAND` when `req_size > S`; otherwise `OK` with `max(size, natlen(n))` bytes on the lanes from lane
0 up, byte `i` being `(n div 256^(out-1-i)) mod 256`, zero on the lanes above, and `rsp_val = 0`; the byte sequence is
`pack(n, size)`; it writes no state and always fits the lanes. -/
def Obligations.IntPackResult : Prop :=
  (∀ (n size : Nat) (s : State), s.cfg.wf = true → valueFits s.cfg n = true → s.cfg.S.admits size = true →
    ∃ x : Response, exec (.intPack n size) s = .next { s with responses := s.responses ++ [x] } ∧
      x.status = .ok ∧ x.len = max size (natlen n) ∧ s.cfg.lmax.admits x.len = true ∧ x.val = 0 ∧
      x.lanes.length = laneCount s.cfg.lmax x.len ∧
      x.lanes.take x.len = pack n size ∧
      (∀ i, i < x.len → (x.lanes[i]?).map BitVec.toNat = some (n / 256 ^ (x.len - 1 - i) % 256)) ∧
      (∀ b ∈ x.lanes.drop x.len, b = 0#8)) ∧
  (∀ (n size : Nat) (s : State), s.cfg.S.admits size = false →
    ∃ x : Response, exec (.intPack n size) s = .next { s with responses := s.responses ++ [x] } ∧
      x.status = .errOperand) ∧
  pack 5 3 = [0x00, 0x00, 0x05]

/-- R76: when `natlen(n) > size`, which for `size >= 1` is `n >= 256^size`, the response carries all `natlen(n)` bytes with status
`OK`; when they are equal it carries exactly `size` bytes, without padding. -/
def Obligations.SlotOverflowIsNotTruncated : Prop :=
  (∀ n size : Nat, 1 ≤ size → (size < natlen n ↔ 256 ^ size ≤ n)) ∧
    (∀ (n size : Nat) (s : State), s.cfg.wf = true → valueFits s.cfg n = true → s.cfg.S.admits size = true →
      size ≤ natlen n →
      ∃ x : Response, exec (.intPack n size) s = .next { s with responses := s.responses ++ [x] } ∧
        x.status = .ok ∧ x.len = natlen n ∧ x.lanes.take x.len = natbytes n ∧ x.val = 0) ∧
    pack 256 1 = [0x01, 0x00] ∧ pack 16777216 3 = [0x01, 0x00, 0x00, 0x00] ∧ pack 255 1 = [0xFF] ∧
    pack 16777215 3 = [0xFF, 0xFF, 0xFF]

/-- R77 (decision D5): with `size = 0` the result is the natural encoding, never empty; `0`, `1` and `2748` give `[00]`, `[01]` and
`[0A BC]`. INT.TOBYTES is this command. -/
def Obligations.PackWithSizeZero : Prop :=
  (∀ (n : Nat) (s : State), s.cfg.wf = true → valueFits s.cfg n = true →
    ∃ x : Response, exec (intToBytes n) s = .next { s with responses := s.responses ++ [x] } ∧
      intToBytes n = .intPack n 0 ∧ x.status = .ok ∧ 1 ≤ x.len ∧ x.len = natlen n ∧
      x.lanes.take x.len = natbytes n) ∧
    natbytes 0 = [0x00] ∧ natbytes 1 = [0x01] ∧ natbytes 2748 = [0x0A, 0xBC]

/-- The spec's inference in 40 section 2: zero in a slot of `size >= 1` bytes is `size` zero bytes. -/
def Obligations.PackOfZeroIsZeros : Prop :=
  ∀ (size : Nat) (s : State), 1 ≤ size → s.cfg.wf = true → s.cfg.S.admits size = true →
    pack 0 size = List.replicate size 0#8 ∧
      ∃ x : Response, exec (.intPack 0 size) s = .next { s with responses := s.responses ++ [x] } ∧
        x.status = .ok ∧ x.len = size ∧ ∀ b ∈ x.lanes, b = 0#8

/-- R79 (decision D23): INT.UNPACK answers `ERR_OPERAND` when `req_len > LMAX`; else `ERR_RANGE` when the value of the lanes below
`req_len` is `2^(8*K)` or more; else `OK` with the value on `rsp_val`, `rsp_len = 0` and every lane zero; it writes no state. -/
def Obligations.IntUnpackResult : Prop :=
  (∀ (len : Nat) (lanes : List Byte) (s : State), s.cfg.lmax.admits len = true →
    valueFits s.cfg (unpack (lanes.take len)) = true →
    ∃ x : Response, exec (.intUnpack len lanes) s = .next { s with responses := s.responses ++ [x] } ∧
      x.status = .ok ∧ x.val = unpack (lanes.take len) ∧ x.len = 0 ∧
      x.lanes.length = laneCount s.cfg.lmax 0 ∧ ∀ b ∈ x.lanes, b = 0#8) ∧
  (∀ (len : Nat) (lanes : List Byte) (s : State), s.cfg.lmax.admits len = true →
    valueFits s.cfg (unpack (lanes.take len)) = false →
    ∃ x : Response, exec (.intUnpack len lanes) s = .next { s with responses := s.responses ++ [x] } ∧
      x.status = .errRange) ∧
  (∀ (len : Nat) (lanes : List Byte) (s : State), s.cfg.lmax.admits len = false →
    ∃ x : Response, exec (.intUnpack len lanes) s = .next { s with responses := s.responses ++ [x] } ∧
      x.status = .errOperand) ∧
  unpack [0x00, 0x00, 0x05] = 5

/-- R80 (decision D23): the empty operand is 0; leading zeros are ignored; three bytes of ones are 16777215; `ERR_RANGE` exactly when
some byte `b[i]` with `i < len - K` is not zero, never when `len <= K` or `K = omega`, and then with `rsp_val = 0`; with `K = 4`
the test is on the value. -/
def Obligations.IntUnpackCorners : Prop :=
  (∀ s : State, ∃ x : Response, exec (.intUnpack 0 []) s = .next { s with responses := s.responses ++ [x] } ∧
      x.status = .ok ∧ x.val = 0) ∧
    (unpack [0x00, 0x00, 0x00] = 0 ∧ unpack [0x00, 0x01, 0x00] = 256 ∧ unpack [0xFF, 0xFF, 0xFF] = 16777215) ∧
    (∀ (K : Nat) (b : List Byte) (s : State), s.cfg.K = .finite K → s.cfg.lmax.admits b.length = true →
      ((∃ x : Response, exec (.intUnpack b.length b) s = .next { s with responses := s.responses ++ [x] } ∧
          x.status = .errRange ∧ x.val = 0) ↔ ∃ i y, i + K < b.length ∧ b[i]? = some y ∧ y ≠ 0)) ∧
    (∀ (b : List Byte) (s : State), s.cfg.K = .omega →
      ∃ x : Response, exec (.intUnpack b.length b) s = .next { s with responses := s.responses ++ [x] } ∧
        x.status = .ok ∧ x.val = unpack b) ∧
    (∀ s : State, s.cfg = { K := .finite 4, S := .finite 8 } →
      (∃ x : Response, exec (.intUnpack 5 [0x00, 0xFF, 0xFF, 0xFF, 0xFF]) s
          = .next { s with responses := s.responses ++ [x] } ∧ x.status = .ok ∧ x.val = 4294967295) ∧
      (∃ x : Response, exec (.intUnpack 5 [0x01, 0x00, 0x00, 0x00, 0x00]) s
          = .next { s with responses := s.responses ++ [x] } ∧ x.status = .errRange ∧ x.val = 0))

/-- The spec's inference in 40 section 4 at the port: the response of INT.PACK, fed lane for lane into INT.UNPACK with
`req_len = rsp_len`, is a well-formed command and answers `OK` with the number packed. -/
def Obligations.PackedResponseUnpacksToTheNumber : Prop :=
  ∀ (n size : Nat) (s t : State) (x : Response), s.cfg.wf = true → valueFits s.cfg n = true →
    s.cfg.S.admits size = true → exec (.intPack n size) s = .next t → t.responses = s.responses ++ [x] →
    (Instr.intUnpack x.len (x.lanes.take x.len)).wf s.cfg = true ∧
      ∃ y : Response, exec (.intUnpack x.len (x.lanes.take x.len)) t
        = .next { t with responses := t.responses ++ [y] } ∧ y.status = .ok ∧ y.val = n

/-! ## The CRC unit: functions -/

/-- The table of 41 section 2 is the one its generation rule gives, and its top bytes and low bytes are pairwise distinct. The rule
and the entries are the spec's general knowledge (G1, log entry 8). -/
def Obligations.TableFollowsGenerationRule : Prop :=
  (∀ i : Byte, tab i = shiftByte (i.setWidth 32)) ∧
    (∀ i j : Byte, (tab i).extractLsb' 24 8 = (tab j).extractLsb' 24 8 → i = j) ∧
    ∀ i j : Byte, (tab i).extractLsb' 0 8 = (tab j).extractLsb' 0 8 → i = j

/-- R92: read at exact widths, the index is `c[7:0] ^ x`, and the result is the table entry exclusive-or `c[31:8]` in bits 23:0 with
zeros in bits 31:24. -/
def Obligations.FoldOfOneByte : Prop :=
  ∀ (c : Word32) (x : Byte),
    foldb c x = (c >>> 8) ^^^ tab (c.extractLsb' 0 8 ^^^ x) ∧
    (c ^^^ x.setWidth 32).extractLsb' 8 24 = c.extractLsb' 8 24 ∧
    ((c ^^^ x.setWidth 32) &&& 0xFF#32) = (c.extractLsb' 0 8 ^^^ x).setWidth 32 ∧
    (c >>> 8).extractLsb' 0 24 = c.extractLsb' 8 24 ∧ (c >>> 8).extractLsb' 24 8 = 0#8 ∧
    (c >>> 8).toNat = c.toNat / 256

/-- The spec's inference in 41 section 3: the table fold equals the bit-serial fold, for every register value and every byte. -/
def Obligations.BitSerialFoldAgrees : Prop :=
  ∀ (c : Word32) (x : Byte), foldb c x = bitSerialFold c x

/-- The spec's inference in 41 section 5 (corner case d): for fixed appended bytes the fold is one-to-one in the register, so two
different registers never merge. -/
def Obligations.FoldIsOneToOne : Prop :=
  ∀ (b : List Byte) (c d : Word32), fold c b = fold d b → c = d

/-! ## The CRC unit: commands -/

/-- R94 (decision D17): CRC.INIT sets `crc` to all ones whatever it was, and answers `OK` with no result. -/
def Obligations.CrcInitResult : Prop :=
  ∀ s : State, ∃ x : Response,
    exec .crcInit s = .next { s with crc := 0xFFFFFFFF#32, responses := s.responses ++ [x] } ∧
      x.status = .ok ∧ x.val = 0 ∧ x.len = 0 ∧ x.lanes.length = laneCount s.cfg.lmax 0 ∧
      ∀ b ∈ x.lanes, b = 0#8

/-- R96 (decision D15): CRC.APPEND with `req_len <= LMAX` folds the lanes below `req_len` into `crc`, lane 0 first, and answers `OK`
with no result; with `req_len > LMAX` it answers `ERR_OPERAND` and `crc` is unchanged. -/
def Obligations.CrcAppendResult : Prop :=
  (∀ (len : Nat) (lanes : List Byte) (s : State), s.cfg.lmax.admits len = true → ∃ x : Response,
    exec (.crcAppend len lanes) s
      = .next { s with
          crc := (lanes.take len).foldl (fun c b => (c >>> 8) ^^^ tab (((c ^^^ b.setWidth 32) &&& 0xFF#32).setWidth 8)) s.crc
          responses := s.responses ++ [x] } ∧
      x.status = .ok ∧ x.val = 0 ∧ x.len = 0 ∧ x.lanes.length = laneCount s.cfg.lmax 0 ∧
      ∀ b ∈ x.lanes, b = 0#8) ∧
  (∀ (len : Nat) (lanes : List Byte) (s : State), s.cfg.lmax.admits len = false → ∃ x : Response,
    exec (.crcAppend len lanes) s = .next { s with responses := s.responses ++ [x] } ∧ x.status = .errOperand) ∧
  (∀ s : State, s.crc = 0xFFFFFFFF#32 → s.cfg.lmax.admits 1 = true →
    ∃ t, exec (.crcAppend 1 [0x68]) s = .next t ∧ t.crc = 0x6E94F918#32)

/-- The spec's inference in 41 section 5: CRC.APPEND with `req_len = 0` folds nothing and answers `OK`. -/
def Obligations.AppendOfNothingKeepsCrc : Prop :=
  ∀ (lanes : List Byte) (s : State), ∃ x : Response,
    exec (.crcAppend 0 lanes) s = .next { s with responses := s.responses ++ [x] } ∧ x.status = .ok

/-- R100 (decisions D16 and D20): CRC.FINAL answers `OK` with the 32-bit complement of `crc`, zero-extended to the value lane, which
can carry it; it writes nothing. -/
def Obligations.CrcFinalResult : Prop :=
  ∀ s : State, ∃ x : Response,
    exec .crcFinal s = .next { s with responses := s.responses ++ [x] } ∧
      x.status = .ok ∧ x.val = 0xFFFFFFFF - s.crc.toNat ∧ x.val = (0xFFFFFFFF#32 ^^^ s.crc).toNat ∧
      (s.cfg.wf = true → valueFits s.cfg x.val = true) ∧ x.len = 0 ∧
      x.lanes.length = laneCount s.cfg.lmax 0 ∧ ∀ b ∈ x.lanes, b = 0#8

/-- R101 (decision D16): after CRC.INIT or reset CRC.FINAL answers `OK` with 0; two in a row answer `OK` with the same value; a
CRC.APPEND after it continues from the same `crc`, and it does not set `crc` back; a register of zero, which four bytes `FF` on a
fresh register give, answers `OK` with `0xFFFFFFFF`. -/
def Obligations.CrcFinalCorners : Prop :=
  (∀ s : State, s.crc = 0xFFFFFFFF#32 → ∃ x : Response,
    exec .crcFinal s = .next { s with responses := s.responses ++ [x] } ∧ x.status = .ok ∧ x.val = 0) ∧
  (∀ s : State, ∃ x : Response, execAll [.crcFinal, .crcFinal] s
    = .next { s with responses := s.responses ++ [x, x] } ∧ x.status = .ok ∧ x.val = (~~~ s.crc).toNat) ∧
  (∀ (s t u : State) (len : Nat) (lanes : List Byte), execAll [.crcFinal, .crcAppend len lanes] s = .next t →
    exec (.crcAppend len lanes) s = .next u → t.crc = u.crc) ∧
  fold 0xFFFFFFFF#32 [0xFF, 0xFF, 0xFF, 0xFF] = 0#32 ∧
  (∀ s : State, s.crc = 0#32 → ∃ x : Response,
    exec .crcFinal s = .next { s with responses := s.responses ++ [x] } ∧ x.status = .ok ∧ x.val = 0xFFFFFFFF)

/-- The spec's inference in 41 section 7 (streaming law): any way of cutting a message into pieces of at most `LMAX` bytes, appended in
order, answers `OK` for each piece and leaves the `crc` of one fold over the whole message. -/
def Obligations.AnyCutGivesTheSameCrc : Prop :=
  ∀ (pieces : List (List Byte)) (s : State), (∀ b ∈ pieces, s.cfg.lmax.admits b.length = true) →
    ∃ t, execAll (pieces.map appendPiece) s = .next t ∧ t.crc = fold s.crc pieces.flatten ∧
      t.cfg = s.cfg ∧ t.inputs = s.inputs ∧
      ∃ added, t.responses = s.responses ++ added ∧ added.length = pieces.length ∧
        ∀ x ∈ added, x.status = .ok

/-- The spec's inference in 30 section 5 (CRC.APPENDS): the pieces are `ceil(len / LMAX)` many, the `j`-th is the slice from
`j*LMAX` of `LMAX` bytes or what is left, none is empty, and together they are the data. -/
def Obligations.AppendsCutsIntoSlices : Prop :=
  ∀ (m : Nat) (data : List Byte), 1 ≤ m →
    (messagePieces (.finite m) data).length = (data.length + m - 1) / m ∧
      (∀ j, j < (data.length + m - 1) / m →
        (messagePieces (.finite m) data)[j]? = some ((data.drop (j * m)).take m)) ∧
      (messagePieces (.finite m) data).flatten = data ∧
      (∀ b ∈ messagePieces (.finite m) data, 1 ≤ b.length ∧ b.length ≤ m)

/-- The spec's inference in 30 section 5 and 41 section 7: on every block and from every state, the commands of `CRC32 data` all
complete, the last response carries the checksum of `data` whatever was appended before, and `"hello"` gives `0x3610A686`. -/
def Obligations.Crc32CommandsComputeTheChecksum : Prop :=
  (∀ (s : State) (data : List Byte), s.cfg.wf = true →
    ∃ (t : State) (added : List Response) (x : Response),
      execAll (crc32Commands s.cfg data) s = .next t ∧ t.responses = s.responses ++ added ++ [x] ∧
      x.status = .ok ∧ x.val = (crc32 data).toNat ∧
      added.length = (messagePieces s.cfg.lmax data).length + 1 ∧
      t.crc = fold 0xFFFFFFFF#32 data ∧ t.cfg = s.cfg ∧ t.inputs = s.inputs) ∧
    crc32 [0x68, 0x65, 0x6C, 0x6C, 0x6F] = 0x3610A686#32 ∧ crc32 [] = 0#32

/-! ## Errors -/

/-- R112 (decision D12): `ERR_ILLEGAL` is answered when, and only when, `req_op` is 0, 6 or 7, whatever the other fields hold; no defined
command ever raises it. -/
def Obligations.IllegalExactlyOnReservedOpcodes : Prop :=
  (∀ (s t : State) (r : Request) (rest : List Input) (x : Response), s.inputs = .command r :: rest →
    step s = .next t → t.responses = s.responses ++ [x] →
    (x.status = .errIllegal ↔ r.op = 0 ∨ r.op = 6 ∨ r.op = 7)) ∧
  (∀ (i : Instr) (s t : State) (x : Response), exec i s = .next t → t.responses = s.responses ++ [x] →
    x.status ≠ .errIllegal)

/-- R113 (decision D13): `ERR_OPERAND` is raised by INT.PACK exactly when `req_size > S`, by INT.UNPACK and CRC.APPEND exactly when
`req_len > LMAX`, never by CRC.INIT or CRC.FINAL; no value of `req_val` or of a lane raises it; in the reference configuration
both fields are 4 bits and the values 9 to 15 raise it; with `S = omega` and `LMAX = omega` it cannot arise. -/
def Obligations.OperandErrorExactlyAboveTheBounds : Prop :=
  (∀ (i : Instr) (s t : State) (x : Response), exec i s = .next t → t.responses = s.responses ++ [x] →
    (x.status = .errOperand ↔
      (∃ n size, i = .intPack n size ∧ s.cfg.S.admits size = false) ∨
      (∃ len lanes, i = .intUnpack len lanes ∧ s.cfg.lmax.admits len = false) ∨
      (∃ len lanes, i = .crcAppend len lanes ∧ s.cfg.lmax.admits len = false))) ∧
  (∀ v : Nat, (sizeFits Config.reference v = true ↔ v < 2 ^ 4) ∧ (lenFits Config.reference v = true ↔ v < 2 ^ 4) ∧
    (Config.reference.S.admits v = true ↔ v ≤ 8) ∧ (Config.reference.lmax.admits v = true ↔ v ≤ 8)) ∧
  (∀ (i : Instr) (s t : State) (x : Response), s.cfg.S = .omega → exec i s = .next t →
    t.responses = s.responses ++ [x] → x.status ≠ .errOperand)

/-- R116 (decision D23): `ERR_RANGE` is raised by INT.UNPACK alone, exactly when `req_len <= LMAX` and the value is `2^(8*K)` or more; it
is possible only when `S > K`, and not when `K = omega`; an `OK` of INT.UNPACK carries the true value. -/
def Obligations.RangeErrorExactlyOnUndeliverableValues : Prop :=
  (∀ (i : Instr) (s t : State) (x : Response), exec i s = .next t → t.responses = s.responses ++ [x] →
    (x.status = .errRange ↔ ∃ len lanes K, i = .intUnpack len lanes ∧ s.cfg.lmax.admits len = true ∧
      s.cfg.K = .finite K ∧ 2 ^ (8 * K) ≤ unpack (lanes.take len))) ∧
  (∀ (i : Instr) (s t : State) (x : Response), exec i s = .next t → t.responses = s.responses ++ [x] →
    x.status = .errRange → ∃ K, s.cfg.K = .finite K ∧ s.cfg.S.admits K = true ∧ s.cfg.S ≠ .finite K) ∧
  (∀ (len : Nat) (lanes : List Byte) (s t : State) (x : Response), exec (.intUnpack len lanes) s = .next t →
    t.responses = s.responses ++ [x] → x.status = .ok → x.val = unpack (lanes.take len))

/-- R115 (decision D13): the tests are made in the order `ERR_ILLEGAL`, `ERR_OPERAND`, `ERR_RANGE`, on every request the
port can carry, and each request gets exactly one status. -/
def Obligations.StatusFollowsTheDecodeOrder : Prop :=
  ∀ (s : State) (r : Request) (rest : List Input), s.inputs = .command r :: rest → r.presentable s.cfg = true →
    ∃ (t : State) (x : Response), step s = .next t ∧ t.responses = s.responses ++ [x] ∧
      x.status =
        if r.op = 0 ∨ r.op = 6 ∨ r.op = 7 then Status.errIllegal
        else if (r.op = 1 ∧ s.cfg.S.admits r.size = false) ∨
            ((r.op = 2 ∨ r.op = 4) ∧ s.cfg.lmax.admits r.len = false) then Status.errOperand
        else if r.op = 2 ∧ valueFits s.cfg (unpack (r.lanes.take r.len)) = false then Status.errRange
        else Status.ok

/-- R114 (decision D14): on any error status no state is written, the response carries the status and zero in `rsp_len`, `rsp_val` and
every lane, nothing is saved, and the block is ready for the next command. -/
def Obligations.ErrorsLeaveTheStateAlone : Prop :=
  ∀ (s t : State) (r : Request) (rest : List Input) (x : Response), s.inputs = .command r :: rest →
    step s = .next t → t.responses = s.responses ++ [x] → x.status ≠ .ok →
    t = { s with inputs := rest, responses := s.responses ++ [x] } ∧ x.len = 0 ∧ x.val = 0 ∧
      x.lanes.length = laneCount s.cfg.lmax 0 ∧ ∀ b ∈ x.lanes, b = 0#8

/-- The spec's inference in 60 section 3 (what is not an error): a result longer than the slot, size 0, `n = 0`, an empty operand, leading
zeros, CRC.FINAL at any time and twice, CRC.APPEND after CRC.FINAL and CRC.INIT at any time all answer `OK`. -/
def Obligations.LegalCommandsAnswerOk : Prop :=
  (∀ (i : Instr) (s : State),
    (∃ n size, i = .intPack n size ∧ s.cfg.S.admits size = true) ∨
      (∃ k b, i = .intUnpack (k + b.length) (List.replicate k 0#8 ++ b) ∧ s.cfg.K.admits b.length = true ∧
        s.cfg.lmax.admits (k + b.length) = true) ∨
      (∃ len lanes, i = .crcAppend len lanes ∧ s.cfg.lmax.admits len = true) ∨
      i = .crcInit ∨ i = .crcFinal →
    ∃ t x, exec i s = .next t ∧ t.responses = s.responses ++ [x] ∧ x.status = .ok) ∧
  (∀ s : State, s.cfg.S.admits 0 = true ∧ s.cfg.lmax.admits 0 = true) ∧
  (∀ (s : State) (len : Nat) (lanes : List Byte), s.cfg.lmax.admits len = true →
    ∃ t x y z, execAll [.crcFinal, .crcFinal, .crcAppend len lanes] s = .next t ∧
      t.responses = s.responses ++ [x, y, z] ∧ x.status = .ok ∧ y.status = .ok ∧ z.status = .ok)

/-! ## Responses -/

/-- R58 (decision D11): every result field a command does not drive is zero, and on an error all of them. -/
def Obligations.UndrivenFieldsAreZero : Prop :=
  ∀ (i : Instr) (s t : State) (x : Response), exec i s = .next t → t.responses = s.responses ++ [x] →
    (x.status ≠ .ok → x.len = 0 ∧ x.val = 0 ∧ ∀ b ∈ x.lanes, b = 0#8) ∧
    (x.status = .ok →
      match i with
      | .intPack n size => x.len = max size (natlen n) ∧ x.val = 0 ∧ x.lanes.take x.len = pack n size ∧
          ∀ b ∈ x.lanes.drop x.len, b = 0#8
      | .intUnpack len lanes => x.len = 0 ∧ x.val = unpack (lanes.take len) ∧ ∀ b ∈ x.lanes, b = 0#8
      | .crcInit => x.len = 0 ∧ x.val = 0 ∧ ∀ b ∈ x.lanes, b = 0#8
      | .crcAppend _ _ => x.len = 0 ∧ x.val = 0 ∧ ∀ b ∈ x.lanes, b = 0#8
      | .crcFinal => x.len = 0 ∧ x.val = (~~~ s.crc).toNat ∧ ∀ b ∈ x.lanes, b = 0#8)

/-- The status codes of R57 and the packed word `RSP` of R56: status lowest, then length, value and lanes, each field at its place, for
every response the port can carry; the reference configuration has 134 bits. -/
def Obligations.ResponseWordLayout : Prop :=
  (Status.code .ok = 0 ∧ Status.code .errIllegal = 1 ∧ Status.code .errOperand = 2 ∧ Status.code .errRange = 3) ∧
    (∀ (K S : Nat) (x : Response), x.Deliverable { K := .finite K, S := .finite S } →
      ∃ w, x.toWord { K := .finite K, S := .finite S } = some w ∧
        w % 2 ^ 2 = x.status.code ∧
        w / 2 ^ 2 % 2 ^ fieldBits (max K S) = x.len ∧
        w / 2 ^ (2 + fieldBits (max K S)) % 2 ^ (8 * K) = x.val ∧
        (∀ i, i < max K S →
          x.lanes[i]? = some (BitVec.ofNat 8 (w / 2 ^ (2 + fieldBits (max K S) + 8 * K + 8 * i)))) ∧
        w < 2 ^ (2 + fieldBits (max K S) + 8 * K + 8 * max K S)) ∧
    rspValOffset 8 8 = 6 ∧ rspLaneOffset 8 8 = 70 ∧ 2 + fieldBits 8 + 8 * 8 + 8 * 8 = 134

/-! ## Frames, invariants and runs -/

/-- The frame of every command: it completes, appends exactly one response after all earlier ones, and leaves the parameters and what
the host has still to send unchanged; INT.PACK, INT.UNPACK and CRC.FINAL leave `crc` unchanged too. The block has no other
state (R20). -/
def Obligations.CommandFrame : Prop :=
  ∀ (i : Instr) (s : State), ∃ (t : State) (x : Response), exec i s = .next t ∧
    t.responses = s.responses ++ [x] ∧ t.cfg = s.cfg ∧ t.inputs = s.inputs ∧
    ((∃ n size, i = .intPack n size) ∨ (∃ len lanes, i = .intUnpack len lanes) ∨ i = .crcFinal → t.crc = s.crc)

/-- The INT unit has no state (R20): what INT.PACK and INT.UNPACK answer depends on the operands and the parameters alone, not on
`crc`, on earlier commands or on what comes after. -/
def Obligations.IntResultsDependOnOperandsAlone : Prop :=
  ∀ (i : Instr) (s s' : State), s.cfg = s'.cfg →
    (∃ n size, i = .intPack n size) ∨ (∃ len lanes, i = .intUnpack len lanes) →
    ∃ x : Response, exec i s = .next { s with responses := s.responses ++ [x] } ∧
      exec i s' = .next { s' with responses := s'.responses ++ [x] }

/-- Who may write `crc` (R21): if a step changes it, the input was a reset, a CRC.INIT, or a CRC.APPEND of at least one byte within
`LMAX`. -/
def Obligations.OnlyResetInitAndAppendWriteCrc : Prop :=
  ∀ s t : State, step s = .next t → t.crc ≠ s.crc →
    (∃ cut rest, s.inputs = .reset cut :: rest) ∨
      (∃ r rest, s.inputs = .command r :: rest ∧ decode r = .ok .crcInit) ∨
      (∃ r rest len lanes, s.inputs = .command r :: rest ∧ decode r = .ok (.crcAppend len lanes) ∧
        1 ≤ len ∧ s.cfg.lmax.admits len = true)

/-- Headline, an invariant of every step: from every state with legal parameters whose responses the port can carry, a step leads to
such a state; in particular no response ever exceeds its fields. -/
def Obligations.StepKeepsResponsesDeliverable : Prop :=
  ∀ s t : State, s.Good → step s = .next t → t.Good

/-- The state after reset meets that invariant. -/
def Obligations.ResetStateIsGood : Prop :=
  State.reset.Good

/-- The parameters are fixed when the block is built (R25): no step changes them, and a step never withdraws or reorders a response
already delivered. -/
def Obligations.StepKeepsParametersAndPastResponses : Prop :=
  ∀ s t : State, step s = .next t → t.cfg = s.cfg ∧ ∃ added, t.responses = s.responses ++ added ∧ added.length ≤ 1 ∧
    (added.length = 1 ↔ ∃ r rest, s.inputs = .command r :: rest)

/-- The reliance of R40, as an invariant of every step: if `crc` is the all-ones value folded over the message so far, it is so after the
step, for the message as the step's input changes it. -/
def Obligations.StepTracksTheMessage : Prop :=
  ∀ (s t : State) (m : List Byte), s.crc = fold 0xFFFFFFFF#32 m → step s = .next t →
    t.crc = fold 0xFFFFFFFF#32 (messageAfter s.cfg m (s.inputs.take 1))

/-- R146, R40: every finite list of inputs a host can send is worked off, one step each; every command is answered, in order,
and `crc` is then the all-ones value folded over every byte of every CRC.APPEND accepted since the last CRC.INIT or reset. R146 says
nothing of a run with a reset part-way but the state afterwards and the missing response; that the run goes on with the inputs after
it, one step for the reset, is the model's reading of 70 section 1 (log entry 6). -/
def Obligations.EveryRunAnswersEveryCommand : Prop :=
  ∀ (s : State) (m : List Byte), s.crc = fold 0xFFFFFFFF#32 m → (∀ i ∈ s.inputs, i.Sendable s.cfg) →
    ∃ (t : State) (added : List Response), core.run s.inputs.length s = .next t ∧ t.inputs = [] ∧
      t.responses = s.responses ++ added ∧ added.length = (s.inputs.filter Input.answered).length ∧
      t.crc = fold 0xFFFFFFFF#32 (messageAfter s.cfg m s.inputs) ∧ t.cfg = s.cfg

/-- 10 sections 1 and 2: a step is the block's own step, whose state is the one register and which takes the parameters and one input as
arguments and gives the response out; nothing else of the state decides what it does, and nothing else of the block persists. That
the host's list and the responses stand beside the register is the model's choice (log entries 1 to 3). -/
def Obligations.StepIsTheBlockStep : Prop :=
  ∀ (s : State) (i : Input) (rest : List Input), s.inputs = i :: rest → i.Sendable s.cfg →
    step s = .next ⟨(blockStep s.cfg i s.toBlock).1,
      { cfg := s.cfg, inputs := rest, responses := s.responses ++ (blockStep s.cfg i s.toBlock).2.toList }⟩

/-- The run of 70 section 5: with every input one the host can send, as many steps as there are inputs end in the final register and the
list of responses of `blockRun`, whose state is the one register and whose arguments are the parameters and the list. Resets
inside the list rest on log entry 6. -/
def Obligations.RunIsTheBlockRun : Prop :=
  ∀ s : State, (∀ i ∈ s.inputs, i.Sendable s.cfg) →
    core.run s.inputs.length s = .next (State.mk (blockRun s.cfg s.inputs s.toBlock).1
      { cfg := s.cfg, inputs := [], responses := s.responses ++ (blockRun s.cfg s.inputs s.toBlock).2 })
end

