-- ==== Sys2Proof/Laws/State.lean ====
section
/-!
SUPPORT. What each update of the state does to each field.
-/

namespace Sys2Proof.Machine

open Sys2Proof

variable (s : State) (v : Word32) (x : Response) (r : Request) (cut : Option Request)

@[simp] theorem setCrc_crc : (setCrc v s).crc = v := rfl
@[simp] theorem setCrc_cfg : (setCrc v s).cfg = s.cfg := rfl
@[simp] theorem setCrc_inputs : (setCrc v s).inputs = s.inputs := rfl
@[simp] theorem setCrc_responses : (setCrc v s).responses = s.responses := rfl

@[simp] theorem deliver_crc : (deliver x s).crc = s.crc := rfl
@[simp] theorem deliver_cfg : (deliver x s).cfg = s.cfg := rfl
@[simp] theorem deliver_inputs : (deliver x s).inputs = s.inputs := rfl
@[simp] theorem deliver_responses : (deliver x s).responses = s.responses ++ [x] := rfl

@[simp] theorem resetBlock_crc : (resetBlock cut s).crc = crcStart := rfl
@[simp] theorem resetBlock_cfg : (resetBlock cut s).cfg = s.cfg := rfl
@[simp] theorem resetBlock_inputs : (resetBlock cut s).inputs = s.inputs := rfl
@[simp] theorem resetBlock_responses : (resetBlock cut s).responses = s.responses := rfl

@[simp] theorem sendFirst_crc : (sendFirst r s).crc = s.crc := rfl
@[simp] theorem sendFirst_cfg : (sendFirst r s).cfg = s.cfg := rfl
@[simp] theorem sendFirst_inputs : (sendFirst r s).inputs = .command r :: s.inputs := rfl
@[simp] theorem sendFirst_responses : (sendFirst r s).responses = s.responses := rfl

@[simp] theorem keepBlock_block (b : Block) : (keepBlock x b).block = b := rfl
@[simp] theorem keepBlock_response (b : Block) : (keepBlock x b).response = x := rfl
@[simp] theorem raiseError_block (c : Config) (st : Status) (b : Block) : (raiseError c st b).block = b := rfl
@[simp] theorem raiseError_response (c : Config) (st : Status) (b : Block) :
    (raiseError c st b).response = valueResponse c st 0 := rfl
@[simp] theorem blockReset_crc (b : Block) : (blockReset b).crc = crcStart := rfl

@[simp] theorem start_crc (c : Config) (inputs : List Input) : (State.start c inputs).crc = 0xFFFFFFFF#32 := rfl
@[simp] theorem start_cfg (c : Config) (inputs : List Input) : (State.start c inputs).cfg = c := rfl
@[simp] theorem start_inputs (c : Config) (inputs : List Input) : (State.start c inputs).inputs = inputs := rfl
@[simp] theorem start_responses (c : Config) (inputs : List Input) : (State.start c inputs).responses = [] := rfl

@[simp] theorem valueResponse_status (c : Config) (st : Status) (n : Nat) :
    (valueResponse c st n).status = st := rfl
@[simp] theorem valueResponse_len (c : Config) (st : Status) (n : Nat) : (valueResponse c st n).len = 0 := rfl
@[simp] theorem valueResponse_val (c : Config) (st : Status) (n : Nat) : (valueResponse c st n).val = n := rfl
@[simp] theorem bytesResponse_status (c : Config) (b : List Byte) : (bytesResponse c b).status = .ok := rfl
@[simp] theorem bytesResponse_len (c : Config) (b : List Byte) : (bytesResponse c b).len = b.length := rfl
@[simp] theorem bytesResponse_val (c : Config) (b : List Byte) : (bytesResponse c b).val = 0 := rfl

end Sys2Proof.Machine
end

