-- ==== Sys2Proof/Laws/Exec.lean ====
section
/-!
SUPPORT. What a command and a step can do, said once: the answer of each command as an equation over the operations, the
shape that all of them share, and what a step does with the oldest input.
-/

namespace Sys2Proof.Machine

open Sys2Proof

variable {s t : State}

/-- An answered response is the only thing an answer of a command adds. -/
theorem next_deliver_inj {x y : Response} (h : (Host.Outcome.next (deliver x s) : Answer) = .next t)
    (hy : t.responses = s.responses ++ [y]) : t = deliver x s ∧ y = x := by
  cases h
  exact ⟨rfl, by simpa using hy.symm⟩

/-- A command that writes no state only delivers its response. -/
@[simp] theorem settle_keepBlock (x : Response) (s : State) :
    settle (keepBlock x s.toBlock) s = .next (deliver x s) := rfl

@[simp] theorem settle_raiseError (st : Status) (s : State) :
    settle (raiseError s.cfg st s.toBlock) s = .next (deliver (valueResponse s.cfg st 0) s) := rfl

theorem intPackResponse_of_admits {c : Config} {n size : Nat} (h : c.S.admits size = true) :
    intPackResponse c n size = bytesResponse c (bigEndian (max size (natlen n)) n) := by
  simp [intPackResponse, sizeTooLarge, h]

theorem intPackResponse_of_not_admits {c : Config} {n size : Nat} (h : c.S.admits size = false) :
    intPackResponse c n size = valueResponse c .errOperand 0 := by
  simp [intPackResponse, sizeTooLarge, h, errorResponse]

theorem intUnpackResponse_of_not_admits {c : Config} {len : Nat} {lanes : List Byte}
    (h : c.lmax.admits len = false) : intUnpackResponse c len lanes = valueResponse c .errOperand 0 := by
  simp [intUnpackResponse, lenTooLarge, h, errorResponse]

theorem intUnpackResponse_of_outOfRange {c : Config} {len : Nat} {lanes : List Byte}
    (h : c.lmax.admits len = true) (hv : outOfRange c (unpack (lanes.take len)) = true) :
    intUnpackResponse c len lanes = valueResponse c .errRange 0 := by
  simp [intUnpackResponse, lenTooLarge, h, byteOperand, hv, errorResponse]

theorem intUnpackResponse_of_inRange {c : Config} {len : Nat} {lanes : List Byte}
    (h : c.lmax.admits len = true) (hv : outOfRange c (unpack (lanes.take len)) = false) :
    intUnpackResponse c len lanes = valueResponse c .ok (unpack (lanes.take len)) := by
  simp [intUnpackResponse, lenTooLarge, h, byteOperand, hv]

theorem crcAppendReply_of_admits {c : Config} {len : Nat} {lanes : List Byte} {b : Block}
    (h : c.lmax.admits len = true) :
    crcAppendReply c len lanes b
      = { block := { crc := fold b.crc (lanes.take len) }, response := valueResponse c .ok 0 } := by
  simp [crcAppendReply, lenTooLarge, h, byteOperand, doneResponse]

theorem crcAppendReply_of_not_admits {c : Config} {len : Nat} {lanes : List Byte} {b : Block}
    (h : c.lmax.admits len = false) :
    crcAppendReply c len lanes b = keepBlock (valueResponse c .errOperand 0) b := by
  simp [crcAppendReply, lenTooLarge, h, raiseError, errorResponse]

theorem execIntPack_of_admits {n size : Nat} (h : s.cfg.S.admits size = true) :
    exec (.intPack n size) s
      = .next (deliver (bytesResponse s.cfg (bigEndian (max size (natlen n)) n)) s) := by
  simp [exec, execIntPack, intPackResponse_of_admits h]

theorem execIntPack_of_not_admits {n size : Nat} (h : s.cfg.S.admits size = false) :
    exec (.intPack n size) s = .next (deliver (valueResponse s.cfg .errOperand 0) s) := by
  simp [exec, execIntPack, intPackResponse_of_not_admits h]

theorem execIntUnpack_of_not_admits {len : Nat} {lanes : List Byte} (h : s.cfg.lmax.admits len = false) :
    exec (.intUnpack len lanes) s = .next (deliver (valueResponse s.cfg .errOperand 0) s) := by
  simp [exec, execIntUnpack, intUnpackResponse_of_not_admits h]

theorem execIntUnpack_of_outOfRange {len : Nat} {lanes : List Byte} (h : s.cfg.lmax.admits len = true)
    (hv : outOfRange s.cfg (unpack (lanes.take len)) = true) :
    exec (.intUnpack len lanes) s = .next (deliver (valueResponse s.cfg .errRange 0) s) := by
  simp [exec, execIntUnpack, intUnpackResponse_of_outOfRange h hv]

theorem execIntUnpack_of_inRange {len : Nat} {lanes : List Byte} (h : s.cfg.lmax.admits len = true)
    (hv : outOfRange s.cfg (unpack (lanes.take len)) = false) :
    exec (.intUnpack len lanes) s = .next (deliver (valueResponse s.cfg .ok (unpack (lanes.take len))) s) := by
  simp [exec, execIntUnpack, intUnpackResponse_of_inRange h hv]

theorem execCrcInit_eq :
    exec .crcInit s = .next (deliver (valueResponse s.cfg .ok 0) (setCrc crcStart s)) := rfl

theorem execCrcAppend_of_admits {len : Nat} {lanes : List Byte} (h : s.cfg.lmax.admits len = true) :
    exec (.crcAppend len lanes) s
      = .next (deliver (valueResponse s.cfg .ok 0) (setCrc (fold s.crc (lanes.take len)) s)) := by
  simp [exec, execCrcAppend, crcAppendReply_of_admits h, settle]

theorem execCrcAppend_of_not_admits {len : Nat} {lanes : List Byte} (h : s.cfg.lmax.admits len = false) :
    exec (.crcAppend len lanes) s = .next (deliver (valueResponse s.cfg .errOperand 0) s) := by
  simp [exec, execCrcAppend, crcAppendReply_of_not_admits h]

theorem execCrcFinal_eq :
    exec .crcFinal s = .next (deliver (valueResponse s.cfg .ok (~~~ s.crc).toNat) s) := rfl

/-- Every command answers: it delivers one response, and `crc` is all that it may write. -/
theorem exec_shape (i : Instr) (s : State) :
    ∃ (c : Word32) (x : Response), exec i s = .next (deliver x (setCrc c s)) := by
  cases i with
  | intPack n size =>
    cases h : s.cfg.S.admits size
    · exact ⟨s.crc, _, execIntPack_of_not_admits h⟩
    · exact ⟨s.crc, _, execIntPack_of_admits h⟩
  | intUnpack len lanes =>
    cases h : s.cfg.lmax.admits len
    · exact ⟨s.crc, _, execIntUnpack_of_not_admits h⟩
    · cases hv : outOfRange s.cfg (unpack (lanes.take len))
      · exact ⟨s.crc, _, execIntUnpack_of_inRange h hv⟩
      · exact ⟨s.crc, _, execIntUnpack_of_outOfRange h hv⟩
  | crcInit => exact ⟨_, _, execCrcInit_eq⟩
  | crcAppend len lanes =>
    cases h : s.cfg.lmax.admits len
    · exact ⟨s.crc, _, execCrcAppend_of_not_admits h⟩
    · exact ⟨_, _, execCrcAppend_of_admits h⟩
  | crcFinal => exact ⟨s.crc, _, execCrcFinal_eq⟩

/-- The oldest input is taken off the list and handled. -/
theorem step_of_inputs {i : Input} {rest : List Input} (h : s.inputs = i :: rest) :
    step s = handleInput i { s with inputs := rest } := by
  simp [step, takeInput, h]

/-- A command of the host either cannot be carried by the port, or is a reserved op code, or is executed. -/
theorem handleCommand_cases (r : Request) (s : State) :
    (r.presentable s.cfg = false ∧ handleInput (.command r) s = .refused .unpresentable) ∨
      (r.presentable s.cfg = true ∧ (∃ e, decode r = .error e) ∧
        handleInput (.command r) s = .next (deliver (valueResponse s.cfg .errIllegal 0) s)) ∨
      (r.presentable s.cfg = true ∧ ∃ i, decode r = .ok i ∧ handleInput (.command r) s = exec i s) := by
  cases hp : r.presentable s.cfg
  · exact .inl ⟨rfl, by simp [handleInput, hp]⟩
  · cases hd : decode r with
    | error e => exact .inr (.inl ⟨rfl, ⟨e, rfl⟩, by simp [handleInput, hp, runCommand, hd]⟩)
    | ok i => exact .inr (.inr ⟨rfl, i, rfl, by simp [handleInput, hp, runCommand, hd]⟩)

end Sys2Proof.Machine
end

