-- ==== Sys2Proof/Laws/Block.lean ====
section
/-!
SUPPORT. The block by itself and the block on its bench: `exec` of a command is the block's own effect with the response
delivered.
-/

namespace Sys2Proof.Machine

open Sys2Proof

/-- `exec` reads the parameters and the block's state and nothing else, writes the block's state, and delivers the response. -/
theorem exec_eq_settle (i : Instr) (s : State) : exec i s = settle (blockExec s.cfg i s.toBlock) s := by
  cases i <;> rfl

@[simp] theorem blockStep_reset (c : Config) (cut : Option Request) (b : Block) :
    blockStep c (.reset cut) b = (blockReset b, none) := rfl

@[simp] theorem blockStep_command (c : Config) (r : Request) (b : Block) :
    blockStep c (.command r) b = ((blockCommand c r b).block, some (blockCommand c r b).response) := rfl

@[simp] theorem blockRun_nil (c : Config) (b : Block) : blockRun c [] b = (b, []) := rfl

theorem blockRun_cons (c : Config) (i : Input) (rest : List Input) (b : Block) :
    blockRun c (i :: rest) b
      = ((blockRun c rest (blockStep c i b).1).1,
          (blockStep c i b).2.toList ++ (blockRun c rest (blockStep c i b).1).2) := rfl

end Sys2Proof.Machine
end

