-- ==== Sys2Proof/Laws/CrcUnit.lean ====
section
/-!
SUPPORT. The fold over a byte sequence (spec/41_crc32.md R95), and the linearity of the bit-serial register (R93).
-/

namespace Sys2Proof.Machine

open Sys2Proof

@[simp] theorem fold_nil (c : Word32) : fold c [] = c := rfl

@[simp] theorem fold_cons (c : Word32) (x : Byte) (b : List Byte) : fold c (x :: b) = fold (foldb c x) b := rfl

theorem fold_append (c : Word32) (a b : List Byte) : fold c (a ++ b) = fold (fold c a) b :=
  List.foldl_append

/-- The index of the table look-up is the low byte of `c` exclusive-or the byte. -/
theorem foldb_index (c : Word32) (x : Byte) :
    ((c ^^^ x.setWidth 32) &&& 0xFF#32).setWidth 8 = c.setWidth 8 ^^^ x := by
  have e : ∀ i, i < 8 → (255#8).getLsbD i = true := by decide
  ext i hi
  have h := e i hi
  simp_all

/-- A shift brings the polynomial in just when the lowest bit is set. -/
theorem shiftStep_eq (d : Word32) : shiftStep d = if d.getLsbD 0 then (d >>> 1) ^^^ 0xEDB88320#32 else d >>> 1 := by
  have h : (d &&& 1#32 = 1#32) ↔ d.getLsbD 0 = true := by
    constructor
    · intro h
      simpa using congrArg (fun z : Word32 => z.getLsbD 0) h
    · intro h
      ext i hi
      by_cases h0 : i = 0
      · subst h0; simpa using h
      · simp [h0]
  simp only [shiftStep, h]

/-- One shift is linear over exclusive-or (R93). -/
theorem shiftStep_xor (u v : Word32) : shiftStep (u ^^^ v) = shiftStep u ^^^ shiftStep v := by
  have cancel : ∀ a b p : Word32, (a ^^^ p) ^^^ (b ^^^ p) = a ^^^ b := by
    intro a b p
    rw [BitVec.xor_assoc, BitVec.xor_comm b p, ← BitVec.xor_assoc p p b, BitVec.xor_self, BitVec.zero_xor]
  have move : ∀ a b p : Word32, (a ^^^ p) ^^^ b = a ^^^ b ^^^ p := by
    intro a b p
    rw [BitVec.xor_assoc, BitVec.xor_comm p b, ← BitVec.xor_assoc]
  simp only [shiftStep_eq, BitVec.getLsbD_xor, BitVec.ushiftRight_xor_distrib]
  cases u.getLsbD 0 <;> cases v.getLsbD 0 <;> simp [cancel, move, ← BitVec.xor_assoc]

/-- So are the eight shifts of a byte. -/
theorem shiftByte_xor (u v : Word32) : shiftByte (u ^^^ v) = shiftByte u ^^^ shiftByte v := by
  simp only [shiftByte, shiftStep_xor]

end Sys2Proof.Machine
end

