-- ==== Sys2Proof/Laws/Decode.lean ====
section
/-!
SUPPORT. The decoder's answers, one for each op code, and what a decoded command was read from.
-/

namespace Sys2Proof

/-- Every answer of the decoder, said once: the op code and the command read, or a reserved op code. -/
theorem decode_cases (r : Request) :
    ((r.op = 0 ∨ r.op = 6 ∨ r.op = 7) ∧ decode r = .error (.reservedOpcode r.op)) ∨
      (r.op = 1 ∧ decode r = .ok (.intPack r.val r.size)) ∨
      (r.op = 2 ∧ decode r = .ok (.intUnpack r.len (r.lanes.take r.len))) ∨
      (r.op = 3 ∧ decode r = .ok .crcInit) ∨
      (r.op = 4 ∧ decode r = .ok (.crcAppend r.len (r.lanes.take r.len))) ∨
      (r.op = 5 ∧ decode r = .ok .crcFinal) := by
  obtain ⟨op, size, len, val, lanes⟩ := r
  have h : op = 0 ∨ op = 1 ∨ op = 2 ∨ op = 3 ∨ op = 4 ∨ op = 5 ∨ op = 6 ∨ op = 7 := by
    revert op; decide
  rcases h with rfl | rfl | rfl | rfl | rfl | rfl | rfl | rfl <;> simp [decode]

/-- The parts of a request the port can carry. -/
theorem presentable_iff (c : Config) (r : Request) :
    r.presentable c = true ↔ sizeFits c r.size = true ∧ lenFits c r.len = true ∧ valueFits c r.val = true ∧
      laneCountFits c r.len r.lanes.length = true := by
  simp [Request.presentable, and_assoc]

/-- As many lanes as a command reads are there to be read. -/
theorem length_take_lanes {c : Config} {len : Nat} {lanes : List Byte}
    (h : laneCountFits c len lanes.length = true) : (lanes.take len).length = lanesRead c len := by
  unfold laneCountFits at h
  unfold lanesRead
  cases hm : c.lmax <;> simp_all

theorem numeral_bit_field {a b k : Nat} (h : a < 2 ^ k) : (a + 2 ^ k * b) % 2 ^ k = a ∧ (a + 2 ^ k * b) / 2 ^ k = b := by
  constructor
  · rw [Nat.add_mul_mod_self_left, Nat.mod_eq_of_lt h]
  · rw [Nat.add_mul_div_left _ _ (by positivity), Nat.div_eq_of_lt h, Nat.zero_add]

theorem lt_two_pow_fieldBits (m : Nat) : m < 2 ^ fieldBits m :=
  Nat.lt_log2_self

theorem lanesNumber_lt : ∀ b : List Byte, lanesNumber b < 2 ^ (8 * b.length)
  | [] => by simp [lanesNumber]
  | x :: rest => by
    have h := lanesNumber_lt rest
    have hx := x.isLt
    have e : 2 ^ (8 * (x :: rest).length) = 2 ^ 8 * 2 ^ (8 * rest.length) := by
      rw [← Nat.pow_add]; congr 1; simp; omega
    rw [e]
    simp only [lanesNumber]
    generalize 2 ^ (8 * rest.length) = p at *
    omega

/-- Byte `i` of the number the lanes make is lane `i`. -/
theorem lanesNumber_div : ∀ (b : List Byte) (i : Nat), i < b.length →
    b[i]? = some (BitVec.ofNat 8 (lanesNumber b / 2 ^ (8 * i)))
  | x :: rest, 0, _ => by
    simp only [lanesNumber, List.getElem?_cons_zero, Option.some.injEq]
    apply BitVec.eq_of_toNat_eq
    have hx := x.isLt
    simp only [BitVec.toNat_ofNat]
    omega
  | x :: rest, i + 1, h => by
    have e : 2 ^ (8 * (i + 1)) = 2 ^ 8 * 2 ^ (8 * i) := by rw [← Nat.pow_add]; congr 1; omega
    rw [List.getElem?_cons_succ, lanesNumber_div rest i (by simpa using h), e, ← Nat.div_div_eq_div_mul, lanesNumber,
      (numeral_bit_field x.isLt).2]

@[simp] theorem lanesAt_length (w lo n : Nat) : (lanesAt w lo n).length = n := by
  simp [lanesAt]

/-- The lanes read from a word make the number that stands there. -/
theorem lanesNumber_lanesAt (w lo n : Nat) : lanesNumber (lanesAt w lo n) = w / 2 ^ lo % 2 ^ (8 * n) := by
  induction n generalizing lo with
  | zero => simp [lanesAt, lanesNumber]; omega
  | succ n ih =>
    have first : lanesAt w lo (n + 1) = BitVec.ofNat 8 (w >>> lo) :: lanesAt w (lo + 8) n := by
      unfold lanesAt
      rw [List.range_succ_eq_map, List.map_cons, List.map_map]
      congr 1
      apply List.map_congr_left
      intro i _
      simp only [Function.comp]
      congr 2
      omega
    have e : 2 ^ (8 * (n + 1)) = 2 ^ 8 * 2 ^ (8 * n) := by rw [← Nat.pow_add]; congr 1; omega
    rw [first, lanesNumber, ih, BitVec.toNat_ofNat, Nat.shiftRight_eq_div_pow, Nat.pow_add, ← Nat.div_div_eq_div_mul,
      e, Nat.mod_mul]

end Sys2Proof
end

