-- ==== Sys2Proof/Laws/IntUnit.lean ====
section
/-!
SUPPORT. The digits of a number and the value of a byte sequence (spec/40_int_pack.md R71 to R74).
-/

namespace Sys2Proof.Machine

open Sys2Proof

theorem natlen_pos (n : Nat) : 1 ≤ natlen n :=
  Nat.le_add_left 1 _

theorem pow_256 (L : Nat) : 256 ^ L = 2 ^ (8 * L) := by
  rw [Nat.pow_mul]

/-- A number has at most `L` bytes just when it is below `256^L`. -/
theorem natlen_le_iff {n L : Nat} (hL : 1 ≤ L) : natlen n ≤ L ↔ n < 256 ^ L := by
  rcases Nat.eq_zero_or_pos n with rfl | hn
  · simp [natlen]; omega
  · rw [pow_256, ← Nat.log2_lt (by omega), natlen]
    omega

theorem lt_pow_natlen (n : Nat) : n < 256 ^ natlen n :=
  (natlen_le_iff (natlen_pos n)).1 (le_refl _)

@[simp] theorem bigEndian_length (len n : Nat) : (bigEndian len n).length = len := by
  simp [bigEndian]

theorem bigEndian_getElem? {len n i : Nat} (h : i < len) :
    (bigEndian len n)[i]? = some (BitVec.ofNat 8 (n / 256 ^ (len - 1 - i))) := by
  simp [bigEndian, h]

/-- The digits from the left: all but the last are those of the quotient by 256. -/
theorem bigEndian_succ (len n : Nat) : bigEndian (len + 1) n = bigEndian len (n / 256) ++ [BitVec.ofNat 8 n] := by
  unfold bigEndian
  rw [List.range_succ, List.map_append]
  congr 1
  · apply List.map_congr_left
    intro i hi
    have hi := List.mem_range.1 hi
    have e : len + 1 - 1 - i = (len - 1 - i) + 1 := by omega
    rw [e, Nat.pow_succ', ← Nat.div_div_eq_div_mul]
  · simp

/-- The digits from the right: one more digit in front. -/
theorem bigEndian_cons (len n : Nat) :
    bigEndian (len + 1) n = BitVec.ofNat 8 (n / 256 ^ len) :: bigEndian len n := by
  unfold bigEndian
  rw [List.range_succ_eq_map, List.map_cons, List.map_map]
  congr 1
  apply List.map_congr_left
  intro i _
  simp only [Function.comp]
  congr 3
  omega

@[simp] theorem unpack_nil : unpack [] = 0 := rfl

theorem unpack_concat (b : List Byte) (x : Byte) : unpack (b ++ [x]) = 256 * unpack b + x.toNat := by
  simp [unpack, unpackStep]

theorem unpack_append (a b : List Byte) : unpack (a ++ b) = unpack a * 256 ^ b.length + unpack b := by
  induction b using List.reverseRecOn with
  | nil => simp
  | append_singleton b x ih =>
    rw [← List.append_assoc, unpack_concat, ih, unpack_concat, List.length_append, List.length_singleton, Nat.pow_succ]
    ring

theorem unpack_lt (b : List Byte) : unpack b < 256 ^ b.length := by
  induction b using List.reverseRecOn with
  | nil => simp
  | append_singleton b x ih =>
    rw [unpack_concat, List.length_append, List.length_singleton, Nat.pow_succ]
    have := x.isLt
    omega

/-- The digits of a number that has at most `len` of them give the number back. -/
theorem unpack_bigEndian (len n : Nat) (h : n < 256 ^ len) : unpack (bigEndian len n) = n := by
  induction len generalizing n with
  | zero => simp at h; simp [bigEndian, h]
  | succ len ih =>
    rw [bigEndian_succ, unpack_concat, ih _ (by rw [Nat.pow_succ] at h; omega), BitVec.toNat_ofNat]
    omega

/-- The digits of a byte sequence's value, as many as it has bytes, are its bytes. -/
theorem bigEndian_unpack (b : List Byte) : bigEndian b.length (unpack b) = b := by
  induction b using List.reverseRecOn with
  | nil => rfl
  | append_singleton b x ih =>
    have hx := x.isLt
    rw [List.length_append, List.length_singleton, bigEndian_succ, unpack_concat]
    have e : (256 * unpack b + x.toNat) / 256 = unpack b := by omega
    rw [e, ih]
    congr 2
    apply BitVec.eq_of_toNat_eq
    simp only [BitVec.toNat_ofNat]
    omega

/-- Leading digits of a number that is too small to have them are zero. -/
theorem bigEndian_add (k len n : Nat) (h : n < 256 ^ len) :
    bigEndian (k + len) n = List.replicate k 0#8 ++ bigEndian len n := by
  induction k with
  | zero => simp
  | succ k ih =>
    have e : k + 1 + len = (k + len) + 1 := by omega
    have hz : n / 256 ^ (k + len) = 0 :=
      Nat.div_eq_of_lt (lt_of_lt_of_le h (Nat.pow_le_pow_right (by omega) (by omega)))
    rw [e, bigEndian_cons, ih, hz, List.replicate_succ, List.cons_append]

end Sys2Proof.Machine
end

