-- ==== Sys2Proof/Laws/Lanes.lean ====
section
/-!
SUPPORT. Byte sequences on the lanes (spec/20_memory.md R32), and the bounds of the parameters.
-/

namespace Sys2Proof.Machine

open Sys2Proof

theorem Bound.join_admits (a b : Bound) (n : Nat) :
    (Bound.join a b).admits n = (a.admits n || b.admits n) := by
  cases a <;> cases b <;> simp [Bound.join, Bound.admits]

/-- The lanes hold the byte sequence first, whatever their number. -/
theorem take_onLanes (m : Bound) (b : List Byte) : (onLanes m b).take b.length = b := by
  cases m <;> simp [onLanes]

/-- The lanes above the byte sequence are zero. -/
theorem onLanes_zero_above (m : Bound) (b : List Byte) : ∀ y ∈ (onLanes m b).drop b.length, y = 0#8 := by
  cases m <;> simp [onLanes, List.mem_replicate]

/-- A byte sequence that fits occupies exactly the lanes of the port. -/
theorem length_onLanes (m : Bound) (b : List Byte) (h : m.admits b.length = true) :
    (onLanes m b).length = laneCount m b.length := by
  cases m <;> simp_all [onLanes, laneCount, Bound.admits]

theorem admits_zero (m : Bound) : m.admits 0 = true := by
  cases m <;> simp [Bound.admits]

theorem length_onLanes_nil (m : Bound) : (onLanes m []).length = laneCount m 0 :=
  length_onLanes m [] (admits_zero m)

theorem onLanes_nil_zero (m : Bound) : ∀ y ∈ onLanes m [], y = 0#8 :=
  onLanes_zero_above m []

/-- Every response without a byte sequence leaves all lanes zero. -/
theorem valueResponse_lanes_zero (c : Config) (st : Status) (v : Nat) : ∀ y ∈ (valueResponse c st v).lanes, y = 0#8 :=
  onLanes_nil_zero c.lmax

theorem valueResponse_lanes_length (c : Config) (st : Status) (v : Nat) :
    (valueResponse c st v).lanes.length = laneCount c.lmax 0 :=
  length_onLanes_nil c.lmax

/-- A response without a byte sequence can be delivered as soon as its value fits. -/
theorem valueResponse_deliverable (c : Config) (st : Status) (v : Nat) (hv : valueFits c v = true)
    (he : st ≠ .ok → v = 0) : (valueResponse c st v).Deliverable c :=
  ⟨admits_zero _, hv, valueResponse_lanes_length c st v, fun y h => valueResponse_lanes_zero c st v y h,
    fun h => ⟨rfl, he h⟩⟩

theorem valueFits_zero (c : Config) : valueFits c 0 = true := by
  unfold valueFits; split <;> simp

theorem outOfRange_eq (c : Config) (v : Nat) : outOfRange c v = !valueFits c v := by
  unfold outOfRange valueFits
  cases c.K <;> simp [← decide_not]

end Sys2Proof.Machine
end

