-- ==== Sys2Proof/Laws/PerInstr.lean ====
section
/-!
SUPPORT. The per-instruction family: the request that encodes a well-formed command is one that the command port can carry
(spec/30_encoding.md R50).
-/

namespace Sys2Proof.Laws

open Sys2Proof

/-- The lanes of an encoded format `B` command are as many as the port has. -/
theorem laneCountFits_onLanes {c : Config} {len : Nat} {lanes : List Byte} (h : lanes.length = lanesRead c len) :
    laneCountFits c len (onLanes c.lmax lanes).length = true := by
  unfold laneCountFits onLanes
  unfold lanesRead at h
  cases hm : c.lmax with
  | finite m => simp only [hm] at h ⊢; simp [h]
  | omega => simp only [hm] at h ⊢; simp [h]

theorem laneCountFits_none (c : Config) : laneCountFits c 0 (onLanes c.lmax []).length = true :=
  laneCountFits_onLanes (by unfold lanesRead; cases c.lmax <;> simp)

theorem lenFits_zero (c : Config) : lenFits c 0 = true := by
  unfold lenFits; split <;> simp

theorem sizeFits_zero (c : Config) : sizeFits c 0 = true := by
  unfold sizeFits; split <;> simp

theorem valueFits_zero (c : Config) : valueFits c 0 = true := by
  unfold valueFits; split <;> simp

end Sys2Proof.Laws

namespace Sys2Proof.Laws.EncodePresentable

open Sys2Proof Sys2Proof.Laws

/-- The port can carry the encoding of `i` as soon as `i` is well formed. -/
def Statement (i : Instr) : Prop :=
  ∀ c : Config, i.wf c = true → (encode c i).presentable c = true

theorem intPack (n size : Nat) : Statement (.intPack n size) := by
  intro c h
  simp only [Instr.wf, Bool.and_eq_true] at h
  exact (presentable_iff c _).2 ⟨h.2, lenFits_zero c, h.1, laneCountFits_none c⟩

theorem intUnpack (len : Nat) (lanes : List Byte) : Statement (.intUnpack len lanes) := by
  intro c h
  simp only [Instr.wf, Bool.and_eq_true, decide_eq_true_eq] at h
  exact (presentable_iff c _).2 ⟨sizeFits_zero c, h.1, valueFits_zero c, laneCountFits_onLanes h.2⟩

theorem crcInit : Statement .crcInit := by
  intro c _
  exact (presentable_iff c _).2 ⟨sizeFits_zero c, lenFits_zero c, valueFits_zero c, laneCountFits_none c⟩

theorem crcAppend (len : Nat) (lanes : List Byte) : Statement (.crcAppend len lanes) := by
  intro c h
  simp only [Instr.wf, Bool.and_eq_true, decide_eq_true_eq] at h
  exact (presentable_iff c _).2 ⟨sizeFits_zero c, h.1, valueFits_zero c, laneCountFits_onLanes h.2⟩

theorem crcFinal : Statement .crcFinal := by
  intro c _
  exact (presentable_iff c _).2 ⟨sizeFits_zero c, lenFits_zero c, valueFits_zero c, laneCountFits_none c⟩

end Sys2Proof.Laws.EncodePresentable
end

