-- ==== Sys2Proof/Tests/Slice0.lean ====
section
/-!
SUPPORT. The model's own tests. Expected values are those of spec/95_test_vectors.md (section or program named at each test) or
words written out from the bit table of spec/30_encoding.md R51. The last part shows, for each statement with hypotheses, a
state and operands that meet them.
-/

namespace Sys2Proof.Tests

open Sys2Proof Sys2Proof.Machine

/-- `K = 4`, `S = 8`: the configuration 95 section 2.3 uses to reach `ERR_RANGE`. -/
def narrow : Config := { K := .finite 4, S := .finite 8 }

/-- The unbounded configuration (R12). -/
def unbounded : Config := { K := .omega, S := .omega }

/-- A block with these parameters and this register, nothing queued and nothing answered. -/
def blockWith (c : Config) (crc : Word32) : State :=
  { crc := crc, cfg := c, inputs := [], responses := [] }

def refBlock : State := blockWith Config.reference 0xC9EF5979#32
def narrowBlock : State := blockWith narrow 0x12345678#32
def freeBlock : State := blockWith unbounded 0x12345678#32

/-- The reference block with one thing queued. -/
def sent (i : Input) : State := { refBlock with inputs := [i] }

/-- A request of the reference configuration with these fields and lanes. -/
def request (op : OpCode) (size len val : Nat) (lanes : List Byte) : Request :=
  { op := op, size := size, len := len, val := val, lanes := onLanes (.finite 8) lanes }

/-- Does the answer complete in a state with this property? -/
def completes (a : Answer) (p : State → Bool) : Bool :=
  match a with
  | .next t => p t
  | .fault _ => false
  | .refused _ => false

/-- The answer's one response and register. -/
def answers (a : Answer) (crc : Word32) (x : Response) : Bool :=
  completes a fun t => decide (t.crc = crc ∧ t.responses = [x])

/-- The packed word of the answer's one response. -/
def answersWord (a : Answer) (crc : Word32) (w : Nat) : Bool :=
  completes a fun t =>
    decide (t.crc = crc ∧ t.responses.map (Response.toWord t.cfg) = [some w])

/-! ## Well-formedness: one ill-formed term for each check -/

theorem test_wf_value_too_wide : (Instr.intPack (2 ^ 64) 3).wf Config.reference = false := by decide
theorem test_wf_size_too_wide : (Instr.intPack 5 16).wf Config.reference = false := by decide
theorem test_wf_len_too_wide : (Instr.intUnpack 16 [0, 0, 0, 0, 0, 0, 0, 0]).wf Config.reference = false := by decide
theorem test_wf_lane_missing : (Instr.intUnpack 3 [0x05, 0x06]).wf Config.reference = false := by decide
theorem test_wf_append_len_too_wide : (Instr.crcAppend 16 [0, 0, 0, 0, 0, 0, 0, 0]).wf Config.reference = false := by decide
theorem test_wf_append_lane_missing : (Instr.crcAppend 2 [0x68]).wf unbounded = false := by decide
theorem test_wf_accepts_above_bound :
    (Instr.intPack 5 9).wf Config.reference = true ∧ (Instr.crcAppend 9 [0, 0, 0, 0, 0, 0, 0, 0]).wf Config.reference = true := by
  decide

/-! ## Decoding: words written out field by field from R51, `req_op` at bit 0, `req_size` 3, `req_len` 7, `req_val` 11, lane `i`
at `75 + 8i` -/

theorem test_decode_intPack :
    decodeWord Config.reference (0b001 + 2 ^ 3 * 0b0011 + 2 ^ 7 * 0b1111 + 2 ^ 11 * 5 + 2 ^ 75 * 0x09)
      = .ok (.intPack 5 3) := by decide
theorem test_decode_intUnpack :
    decodeWord Config.reference (0b010 + 2 ^ 3 * 0b1111 + 2 ^ 7 * 0b0011 + 2 ^ 11 * 777 + 2 ^ 91 * 0x05 + 2 ^ 99 * 0xFF)
      = .ok (.intUnpack 3 [0x00, 0x00, 0x05]) := by decide
theorem test_decode_crcInit : decodeWord Config.reference (0b011 + 2 ^ 7 * 0b1111) = .ok .crcInit := by decide
theorem test_decode_crcAppend :
    decodeWord Config.reference (0b100 + 2 ^ 3 * 9 + 2 ^ 7 * 0b0001 + 2 ^ 11 * 12345 + 2 ^ 75 * 0x65 + 2 ^ 83 * 0xAA)
      = .ok (.crcAppend 1 [0x65]) := by decide
theorem test_decode_crcFinal :
    decodeWord Config.reference (0b101 + 2 ^ 3 * 12 + 2 ^ 7 * 13 + 2 ^ 11 * 999) = .ok .crcFinal := by decide
theorem test_decode_reserved : decodeWord Config.reference 0b110 = .error (.reservedOpcode 6) := by decide
theorem test_decode_too_wide : decodeWord Config.reference (2 ^ 139) = .error .wordTooWide := by decide
theorem test_decode_unbounded : decodeWord unbounded 1 = .error .noPackedWord := by decide

/-- Program P6, command 2. -/
theorem test_encode_crcAppend :
    encodeWord Config.reference (.crcAppend 8 [0x54, 0x68, 0x65, 0x20, 0x71, 0x75, 0x69, 0x63])
      = .ok 0x31B4BAB89032B42A0000000000000000404 := by decide
/-- Program P4, command 2. -/
theorem test_encode_intPack : encodeWord Config.reference (.intPack 300 1) = .ok 0x96009 := by decide

/-- `K = 4`, `S = 8`: `req_size` at 3, `req_len` at 7, `req_val` at 11 with 32 bits, lane 0 at 43 (R51). -/
theorem test_decode_narrow :
    decodeWord narrow (0b010 + 2 ^ 7 * 0b0010 + 2 ^ 43 * 0x01 + 2 ^ 51 * 0x2C) = .ok (.intUnpack 2 [0x01, 0x2C]) := by decide

/-! ## Commands -/

/-- Program P4, command 2: the slot overflows and the response word is that of the program. -/
theorem test_intPack_overflow :
    answersWord (exec (.intPack 300 1) refBlock) 0xC9EF5979#32 0x0000000000000B00400000000000000008 = true := by decide
/-- Section 2.2 and S6: zero with size 0 is one byte. -/
theorem test_intPack_zero :
    answers (exec (.intPack 0 0) freeBlock) 0x12345678#32 { status := .ok, len := 1, val := 0, lanes := [0x00] } = true := by
  decide

/-- Section 2.3: bit 63 set is still unsigned. -/
theorem test_intUnpack_bit63 :
    answers (exec (.intUnpack 8 [0x80, 0, 0, 0, 0, 0, 0, 0]) refBlock) 0xC9EF5979#32
      { status := .ok, len := 0, val := 9223372036854775808, lanes := [0, 0, 0, 0, 0, 0, 0, 0] } = true := by decide
/-- Section 2.3, `K = 4`: the value `2^32` cannot be delivered. -/
theorem test_intUnpack_range :
    answers (exec (.intUnpack 8 [0, 0, 0, 0x01, 0, 0, 0, 0]) narrowBlock) 0x12345678#32
      { status := .errRange, len := 0, val := 0, lanes := [0, 0, 0, 0, 0, 0, 0, 0] } = true := by decide

/-- Section 2.7. -/
theorem test_crcInit : completes (exec .crcInit narrowBlock) (fun t => decide (t.crc = 0xFFFFFFFF#32)) = true := by decide

/-- S1: the five bytes of "hello". -/
theorem test_crcAppend_hello :
    completes (exec (.crcAppend 5 [0x68, 0x65, 0x6C, 0x6C, 0x6F]) State.reset) (fun t => decide (t.crc = 0xC9EF5979#32)) = true := by
  decide
/-- Program P7, command 6: nine bytes are too many and none is folded. -/
theorem test_crcAppend_too_long :
    answersWord (exec (.crcAppend 9 [0x68, 0x65, 0x6C, 0x6C, 0x6F, 0, 0, 0]) refBlock) 0xC9EF5979#32 2 = true := by decide

/-- Program P1, command 7: the source's value, and the response word. -/
theorem test_crcFinal :
    answersWord (exec .crcFinal refBlock) 0xC9EF5979#32 0x0000000000000000000000000D8429A180 = true := by decide
/-- Section 2.7: a register of zero is not special. -/
theorem test_crcFinal_zero :
    completes (exec .crcFinal (blockWith narrow 0)) (fun t => decide (t.responses.map Response.val = [0xFFFFFFFF])) = true := by decide

/-! ## Functions -/

/-- Section 2.5: bit 31 shifts to bit 23 and zeros come in; and the generic row. -/
theorem test_foldb :
    foldb 0x80000000#32 0x00 = 0x00800000#32 ∧ foldb 0x12345678#32 0x9A = 0x4E16B702#32 ∧
      foldb 0xFFFFFFFF#32 0x00 = 0x2DFD1072#32 := by decide
/-- Section 2.6. -/
theorem test_crc32 :
    crc32 [0x31, 0x32, 0x33, 0x34, 0x35, 0x36, 0x37, 0x38, 0x39] = 0xCBF43926#32 ∧
      crc32 [0x6F, 0x6C, 0x6C, 0x65, 0x68] = 0xB69E1BF6#32 ∧ crc32 [0x00] = 0xD202EF8D#32 := by decide
/-- Section 2.8. -/
theorem test_tab : tab 0x02 = 0xEE0E612C#32 ∧ tab 0x10 = 0x1DB71064#32 ∧ tab 0xFF = 0x2D02EF8D#32 ∧
    shiftByte 0x01#32 = 0x77073096#32 := by decide
/-- R72's examples. -/
theorem test_hexProcedure : hexProcedure 0xABC = [0x0A, 0xBC] ∧ hexProcedure 15 = [0x0F] ∧ hexProcedure 0 = [0x00] := by decide
/-- Program P6: 43 bytes are cut into five pieces of 8 and one of 3. -/
theorem test_pieces : (messagePieces (.finite 8) (List.replicate 43 0x20)).map List.length = [8, 8, 8, 8, 8, 3] := by decide

/-! ## Steps -/

/-- Program P7, command 3: the all-zero word is answered `ERR_ILLEGAL` and nothing else changes. -/
theorem test_step_reserved : answersWord (step (State.reset.withFetchWord 8 0)) 0xFFFFFFFF#32 1 = true := by decide
/-- Section 2.7: CRC.FINAL as the first command after reset answers 0. -/
theorem test_step_first_command : answersWord (step (State.reset.withFetchWord 8 5)) 0xFFFFFFFF#32 0 = true := by decide
theorem test_step_reset :
    completes (step (sent (.reset (some (request 4 0 1 0 [0x68])))))
      (fun t => decide (t.crc = 0xFFFFFFFF#32 ∧ t.responses = [] ∧ t.inputs = [])) = true := by decide

/-- S1 as a run of the block alone: three commands from reset, three responses, the source's value in the last. -/
theorem test_blockRun_hello :
    (blockRun Config.reference
        [.command (request 3 0 0 0 []), .command (request 4 0 5 0 [0x68, 0x65, 0x6C, 0x6C, 0x6F]), .command (request 5 0 0 0 [])]
        Block.reset).2.map Response.val = [0, 0, 0x3610A686] := by decide

/-! ## Witnesses: the hypotheses of each statement can be met, each clause at a boundary value -/

theorem witness_ResetLeavesAllOnes :
    (sent (.reset (some (request 4 0 1 0 [0x68])))).inputs = .reset (some (request 4 0 1 0 [0x68])) :: [] ∧
      (sent (.reset none)).inputs = .reset none :: [] := ⟨rfl, rfl⟩

theorem witness_ResetAndCrcInitLeaveTheSameRegister : ∃ t, exec .crcInit narrowBlock = .next t := ⟨_, rfl⟩

theorem witness_StepRunsDecodedCommand :
    (sent (.command (request 1 3 0 5 []))).inputs = .command (request 1 3 0 5 []) :: [] ∧
      (request 1 3 0 5 []).presentable refBlock.cfg = true ∧ decode (request 1 3 0 5 []) = .ok (.intPack 5 3) := by decide

theorem witness_StepWaitsWhenNothingIsSent : State.reset.inputs = [] := rfl

/-- Both sides of the equivalence occur: a length that takes five bits, and one that does not. -/
theorem witness_StepStopsOnlyOnUnpresentableRequests :
    (request 4 0 16 0 []).presentable refBlock.cfg = false ∧ (request 4 0 15 0 []).presentable refBlock.cfg = true ∧
      (match step (sent (.command (request 4 0 16 0 []))) with
        | .refused .unpresentable => true | _ => false) = true := by decide

theorem witness_TableWordRunsNext :
    State.reset.cfg = Config.reference ∧ decodeTableWord 8 1 = some (.intPack 0 0) ∧
      decodeTableWord 8 0xFD = some .crcFinal ∧ decodeTableWord 8 0x84 = some (.crcAppend 1 [0]) := by decide

theorem witness_OpcodeMap :
    (request 0 0 0 0 []).op = 0 ∧ (request 7 0 0 0 []).op = 7 ∧ (request 1 0 0 0 []).op = 1 ∧ (request 2 0 0 0 []).op = 2 ∧
      (request 3 0 0 0 []).op = 3 ∧ (request 4 0 0 0 []).op = 4 ∧ (request 5 0 0 0 []).op = 5 := by decide

/-- Program P8, commands 3 and 5, against the same commands with zeros in the unread fields. -/
theorem witness_UnreadFieldsAreIgnored :
    (request 4 9 1 12345 [0x65, 0xAA]).presentable refBlock.cfg = true ∧ (request 4 0 1 0 [0x65]).presentable refBlock.cfg = true ∧
      (request 4 9 1 12345 [0x65, 0xAA]).lanes.take 1 = (request 4 0 1 0 [0x65]).lanes.take 1 ∧
      (request 4 9 1 12345 [0x65, 0xAA]).lanes ≠ (request 4 0 1 0 [0x65]).lanes ∧
      (request 1 3 15 5 [0x09]).presentable refBlock.cfg = true ∧ (request 1 3 0 5 []).presentable refBlock.cfg = true := by decide

theorem witness_DecodeEncodeRoundTrip :
    (Instr.intPack (2 ^ 64 - 1) 15).wf Config.reference = true ∧ (Instr.intUnpack 15 [0, 1, 2, 3, 4, 5, 6, 7]).wf Config.reference = true ∧
      (Instr.crcAppend 3 [1, 2, 3]).wf unbounded = true ∧ (Instr.intPack (2 ^ 64) 99).wf unbounded = true := by decide

theorem witness_PackedWordRoundTrip :
    (Instr.intPack (2 ^ 32 - 1) 8).wf { K := .finite 4, S := .finite 8 } = true ∧
      (Instr.crcAppend 8 [0, 1, 2, 3, 4, 5, 6, 7]).wf { K := .finite 4, S := .finite 8 } = true ∧
      (Instr.intUnpack 0 []).wf { K := .finite 4, S := .finite 0 } = true := by decide

theorem witness_PackedWordKeepsEveryBit : 2 ^ 139 - 1 < 2 ^ reqBits 8 8 ∧ 0 < 2 ^ reqBits 4 0 := by decide

theorem witness_PackedWordLayout :
    (request 7 15 15 (2 ^ 64 - 1) [0xFF, 0xFF, 0xFF, 0xFF, 0xFF, 0xFF, 0xFF, 0xFF]).presentable { K := .finite 8, S := .finite 8 } = true ∧
      unbounded.K = .omega ∧ ({ K := .finite 8, S := .omega } : Config).S = .omega := by decide

theorem witness_FieldWidthsAreFewestBits : 1 ≤ 4 ∧ 8 < 2 ^ 4 ∧ fieldBits 8 = 4 ∧ fieldBits 0 = 1 ∧ fieldBits 7 = 3 := by decide

theorem witness_DecodedCommandIsWellFormed :
    (request 2 0 9 0 [1, 2, 3, 4, 5, 6, 7, 8]).presentable Config.reference = true ∧
      decode (request 2 0 9 0 [1, 2, 3, 4, 5, 6, 7, 8]) = .ok (.intUnpack 9 [1, 2, 3, 4, 5, 6, 7, 8]) := by decide

theorem witness_NaturalEncoding : 1 ≤ 2 ∧ 65535 < 256 ^ 2 ∧ natlen 65535 = 2 ∧ 1 < natlen 256 ∧ 0 < 1 := by decide

theorem witness_FixedWidthEncoding : natlen 5 < 3 ∧ 1 ≤ natlen 255 ∧ 0 ≤ natlen 0 ∧ 2 < max 3 (natlen 5) := by decide

theorem witness_PackOfUnpack : 1 ≤ [(0x00 : Byte), 0x00, 0x05].length ∧ 1 ≤ [(0x00 : Byte)].length := by decide

theorem witness_MixedWidthsArePositional : 1 ≤ [(0x01 : Byte), 0x2C].length ∧ 0 ≤ ([] : List Byte).length := by decide

/-- INT.PACK completes at `size = S` and with the largest operand, and is turned away at `size = S + 1`. -/
theorem witness_IntPackResult :
    refBlock.cfg.wf = true ∧ valueFits refBlock.cfg (2 ^ 64 - 1) = true ∧ refBlock.cfg.S.admits 8 = true ∧
      refBlock.cfg.S.admits 9 = false ∧ freeBlock.cfg.wf = true ∧ freeBlock.cfg.S.admits 9 = true := by decide

theorem witness_SlotOverflowIsNotTruncated :
    1 ≤ 1 ∧ refBlock.cfg.wf = true ∧ valueFits refBlock.cfg 256 = true ∧ refBlock.cfg.S.admits 1 = true ∧ 1 ≤ natlen 256 ∧
      1 ≤ natlen 255 := by decide

theorem witness_PackWithSizeZero : refBlock.cfg.wf = true ∧ valueFits refBlock.cfg 0 = true := by decide

theorem witness_PackOfZeroIsZeros : 1 ≤ 8 ∧ refBlock.cfg.wf = true ∧ refBlock.cfg.S.admits 8 = true := by decide

/-- INT.UNPACK: the largest value of `K = 4`, the least beyond it, and a length above `LMAX`. -/
theorem witness_IntUnpackResult :
    narrowBlock.cfg.lmax.admits 8 = true ∧
      valueFits narrowBlock.cfg (unpack ([(0 : Byte), 0, 0, 0, 0xFF, 0xFF, 0xFF, 0xFF].take 8)) = true ∧
      valueFits narrowBlock.cfg (unpack ([(0 : Byte), 0, 0, 1, 0, 0, 0, 0].take 8)) = false ∧
      narrowBlock.cfg.lmax.admits 9 = false := by decide

theorem witness_IntUnpackCorners :
    narrowBlock.cfg.K = .finite 4 ∧ narrowBlock.cfg.lmax.admits [(0x01 : Byte), 0, 0, 0, 0].length = true ∧
      0 + 4 < [(0x01 : Byte), 0, 0, 0, 0].length ∧ freeBlock.cfg.K = .omega ∧
      narrowBlock.cfg = { K := .finite 4, S := .finite 8 } := by decide

theorem witness_PackedResponseUnpacksToTheNumber :
    refBlock.cfg.wf = true ∧ valueFits refBlock.cfg 300 = true ∧ refBlock.cfg.S.admits 1 = true ∧
      ∃ t x, exec (.intPack 300 1) refBlock = .next t ∧ t.responses = refBlock.responses ++ [x] :=
  ⟨rfl, rfl, rfl, _, _, rfl, rfl⟩

theorem witness_TableFollowsGenerationRule :
    (tab 0x80).extractLsb' 24 8 = (tab 0x80).extractLsb' 24 8 ∧ (tab 0xFF).extractLsb' 0 8 = (tab 0xFF).extractLsb' 0 8 := ⟨rfl, rfl⟩

theorem witness_FoldIsOneToOne : fold 0x12345678#32 [0x9A, 0x00] = fold 0x12345678#32 [0x9A, 0x00] := rfl

/-- CRC.APPEND completes at `req_len = 0` and `LMAX`, and is turned away at `LMAX + 1`. -/
theorem witness_CrcAppendResult :
    refBlock.cfg.lmax.admits 0 = true ∧ refBlock.cfg.lmax.admits 8 = true ∧ refBlock.cfg.lmax.admits 9 = false ∧
      State.reset.crc = 0xFFFFFFFF#32 ∧ State.reset.cfg.lmax.admits 1 = true := by decide

theorem witness_CrcFinalResult : refBlock.cfg.wf = true ∧ narrowBlock.cfg.wf = true ∧ freeBlock.cfg.wf = true := by decide

theorem witness_CrcFinalCorners :
    State.reset.crc = 0xFFFFFFFF#32 ∧ (blockWith narrow 0).crc = 0#32 ∧
      (∃ t, execAll [.crcFinal, .crcAppend 1 [0x68]] refBlock = .next t) ∧ ∃ u, exec (.crcAppend 1 [0x68]) refBlock = .next u :=
  ⟨rfl, rfl, ⟨_, rfl⟩, _, rfl⟩

theorem witness_AnyCutGivesTheSameCrc :
    ∀ b ∈ [[(0x68 : Byte), 0x65], [], [0x6C, 0x6C, 0x6F]], refBlock.cfg.lmax.admits b.length = true := by decide

theorem witness_AppendsCutsIntoSlices :
    1 ≤ 8 ∧ 5 < ((List.replicate 43 (0x20 : Byte)).length + 8 - 1) / 8 ∧ (([] : List Byte).length + 8 - 1) / 8 = 0 := by decide

theorem witness_Crc32CommandsComputeTheChecksum : refBlock.cfg.wf = true ∧ freeBlock.cfg.wf = true := by decide

/-- A reserved code and a defined one, each answered. -/
theorem witness_IllegalExactlyOnReservedOpcodes :
    (∃ t x, step (sent (.command (request 6 0 0 0 []))) = .next t ∧ t.responses = refBlock.responses ++ [x]) ∧
      (∃ t x, step (sent (.command (request 5 0 0 0 []))) = .next t ∧ t.responses = refBlock.responses ++ [x]) ∧
      ∃ t x, exec .crcFinal refBlock = .next t ∧ t.responses = refBlock.responses ++ [x] :=
  ⟨⟨_, _, rfl, rfl⟩, ⟨_, _, rfl, rfl⟩, _, _, rfl, rfl⟩

theorem witness_OperandErrorExactlyAboveTheBounds :
    (∃ t x, exec (.intPack 5 9) refBlock = .next t ∧ t.responses = refBlock.responses ++ [x] ∧ x.status = .errOperand) ∧
      (∃ t x, exec (.crcAppend 8 [0, 1, 2, 3, 4, 5, 6, 7]) refBlock = .next t ∧ t.responses = refBlock.responses ++ [x] ∧ x.status = .ok) ∧
      freeBlock.cfg.S = .omega ∧ ∃ t x, exec (.intPack 5 9) freeBlock = .next t ∧ t.responses = freeBlock.responses ++ [x] :=
  ⟨⟨_, _, rfl, rfl, rfl⟩, ⟨_, _, rfl, rfl, rfl⟩, rfl, _, _, rfl, rfl⟩

theorem witness_RangeErrorExactlyOnUndeliverableValues :
    (∃ t x, exec (.intUnpack 5 [0x01, 0, 0, 0, 0]) narrowBlock = .next t ∧ t.responses = narrowBlock.responses ++ [x] ∧
        x.status = .errRange) ∧
      ∃ t x, exec (.intUnpack 5 [0x00, 0xFF, 0xFF, 0xFF, 0xFF]) narrowBlock = .next t ∧
        t.responses = narrowBlock.responses ++ [x] ∧ x.status = .ok :=
  ⟨⟨_, _, rfl, rfl, rfl⟩, _, _, rfl, rfl, rfl⟩

theorem witness_StatusFollowsTheDecodeOrder :
    (sent (.command (request 2 0 15 0 [0x01]))).inputs = .command (request 2 0 15 0 [0x01]) :: [] ∧
      (request 2 0 15 0 [0x01]).presentable refBlock.cfg = true ∧ (request 7 15 15 0 []).presentable refBlock.cfg = true ∧
      (request 2 0 8 0 [0x01]).presentable refBlock.cfg = true := by decide

theorem witness_ErrorsLeaveTheStateAlone :
    (sent (.command (request 4 0 9 0 [0x68]))).inputs = .command (request 4 0 9 0 [0x68]) :: [] ∧
      ∃ t x, step (sent (.command (request 4 0 9 0 [0x68]))) = .next t ∧ t.responses = refBlock.responses ++ [x] ∧
        x.status ≠ .ok :=
  ⟨rfl, _, _, rfl, rfl, by decide⟩

theorem witness_LegalCommandsAnswerOk :
    refBlock.cfg.S.admits 0 = true ∧ narrowBlock.cfg.K.admits [(0xFF : Byte), 0xFF, 0xFF, 0xFF].length = true ∧
      narrowBlock.cfg.lmax.admits (4 + 4) = true ∧ refBlock.cfg.lmax.admits 0 = true := by decide

theorem witness_UndrivenFieldsAreZero :
    (∃ t x, exec (.intPack 300 1) refBlock = .next t ∧ t.responses = refBlock.responses ++ [x] ∧ x.status = .ok) ∧
      (∃ t x, exec (.intPack 300 9) refBlock = .next t ∧ t.responses = refBlock.responses ++ [x] ∧ x.status ≠ .ok) ∧
      (∃ t x, exec (.intUnpack 1 [0x05]) refBlock = .next t ∧ t.responses = refBlock.responses ++ [x] ∧ x.status = .ok) ∧
      (∃ t x, exec .crcInit refBlock = .next t ∧ t.responses = refBlock.responses ++ [x] ∧ x.status = .ok) ∧
      (∃ t x, exec (.crcAppend 1 [0x05]) refBlock = .next t ∧ t.responses = refBlock.responses ++ [x] ∧ x.status = .ok) ∧
      ∃ t x, exec .crcFinal refBlock = .next t ∧ t.responses = refBlock.responses ++ [x] ∧ x.status = .ok :=
  ⟨⟨_, _, rfl, rfl, rfl⟩, ⟨_, _, rfl, rfl, by decide⟩, ⟨_, _, rfl, rfl, rfl⟩, ⟨_, _, rfl, rfl, rfl⟩, ⟨_, _, rfl, rfl, rfl⟩,
    _, _, rfl, rfl, rfl⟩

/-- The longest byte result and an error are both deliverable. -/
theorem witness_ResponseWordLayout :
    (bytesResponse { K := .finite 8, S := .finite 8 } [1, 2, 3, 4, 5, 6, 7, 8]).Deliverable { K := .finite 8, S := .finite 8 } ∧
      (valueResponse { K := .finite 8, S := .finite 8 } .errRange 0).Deliverable { K := .finite 8, S := .finite 8 } := by
  unfold Response.Deliverable
  decide

theorem witness_CommandFrame : ∃ n size, (Instr.intPack 5 3) = .intPack n size := ⟨5, 3, rfl⟩

theorem witness_IntResultsDependOnOperandsAlone :
    (blockWith narrow 0).cfg = narrowBlock.cfg ∧ (blockWith narrow 0).crc ≠ narrowBlock.crc := by decide

theorem witness_OnlyResetInitAndAppendWriteCrc :
    ∃ t, step (sent (.command (request 4 0 1 0 [0x68]))) = .next t ∧ t.crc ≠ (sent (.command (request 4 0 1 0 [0x68]))).crc :=
  ⟨_, rfl, by decide⟩

/-- The invariant holds in a state that already delivered a response, and its step is one that delivers another. -/
theorem witness_StepKeepsResponsesDeliverable :
    ({ sent (.command (request 1 3 0 5 [])) with responses := [bytesResponse Config.reference [0x05]] } : State).Good ∧
      ∃ t, step { sent (.command (request 1 3 0 5 [])) with responses := [bytesResponse Config.reference [0x05]] } = .next t := by
  refine ⟨?_, _, rfl⟩
  unfold State.Good Response.Deliverable
  decide

theorem witness_StepKeepsParametersAndPastResponses : ∃ t, step (sent (.command (request 0 0 0 0 []))) = .next t := ⟨_, rfl⟩

theorem witness_StepTracksTheMessage :
    (sent (.command (request 4 0 1 0 [0x68]))).crc = fold 0xFFFFFFFF#32 [0x68, 0x65, 0x6C, 0x6C, 0x6F] ∧
      ∃ t, step (sent (.command (request 4 0 1 0 [0x68]))) = .next t :=
  ⟨by decide, _, rfl⟩

theorem witness_EveryRunAnswersEveryCommand :
    refBlock.crc = fold 0xFFFFFFFF#32 [0x68, 0x65, 0x6C, 0x6C, 0x6F] ∧
      ∀ i ∈ [Input.command (request 3 0 0 0 []), .reset none, .command (request 0 0 0 0 [])], i.Sendable refBlock.cfg :=
  ⟨by decide, by simp [Input.Sendable]; decide⟩

/-- A command with a response and a reset without one. -/
theorem witness_StepIsTheBlockStep :
    (sent (.command (request 5 0 0 0 []))).inputs = .command (request 5 0 0 0 []) :: [] ∧
      (Input.command (request 5 0 0 0 [])).Sendable refBlock.cfg ∧ (sent (.reset none)).inputs = .reset none :: [] ∧
      (Input.reset none).Sendable refBlock.cfg :=
  ⟨rfl, by simp [Input.Sendable]; decide, rfl, trivial⟩

theorem witness_RunIsTheBlockRun :
    let s := State.start Config.reference [.command (request 3 0 0 0 []), .reset none, .command (request 5 0 0 0 [])]
    s.inputs.length = 3 ∧ ∀ i ∈ s.inputs, i.Sendable s.cfg :=
  ⟨rfl, by simp [State.start, Input.Sendable]; decide⟩

end Sys2Proof.Tests
end

section
/-!
SUPPORT. What a command and a step leave unchanged, and what they write (spec/10_state.md R20, R21, R25): the state after one
input of the host, one inversion of `step`, and the statements about state that follow from the two.
-/

namespace Sys2Proof.Machine

open Sys2Proof

/-- The state after one input, already taken off the list: the block has made its own step, and its response, if there is one,
stands after all earlier ones. -/
def afterInput (i : Input) (s : State) : State :=
  ⟨(blockStep s.cfg i s.toBlock).1,
    { cfg := s.cfg, inputs := s.inputs, responses := s.responses ++ (blockStep s.cfg i s.toBlock).2.toList }⟩

section
variable (i : Input) (s : State)

@[simp] theorem afterInput_toBlock : (afterInput i s).toBlock = (blockStep s.cfg i s.toBlock).1 := rfl
@[simp] theorem afterInput_cfg : (afterInput i s).cfg = s.cfg := rfl
@[simp] theorem afterInput_inputs : (afterInput i s).inputs = s.inputs := rfl
@[simp] theorem afterInput_responses :
    (afterInput i s).responses = s.responses ++ (blockStep s.cfg i s.toBlock).2.toList := rfl

end

/-! ## The INT unit -/

/-- INT.PACK delivers a response that the register has no part in (R20). -/
theorem exec_intPack (n size : Nat) (s : State) :
    exec (.intPack n size) s = .next (deliver (intPackResponse s.cfg n size) s) :=
  settle_keepBlock _ s

/-- INT.UNPACK delivers a response that the register has no part in (R20). -/
theorem exec_intUnpack (len : Nat) (lanes : List Byte) (s : State) :
    exec (.intUnpack len lanes) s = .next (deliver (intUnpackResponse s.cfg len lanes) s) :=
  settle_keepBlock _ s

/-! ## Who writes the register -/

/-- A command that writes the register is CRC.INIT or a CRC.APPEND of at least one byte within `LMAX` (R21). -/
theorem blockExec_writes {c : Config} {i : Instr} {b : Block} (h : (blockExec c i b).block ≠ b) :
    i = .crcInit ∨ ∃ len lanes, i = .crcAppend len lanes ∧ 1 ≤ len ∧ c.lmax.admits len = true := by
  cases i with
  | intPack n size => exact absurd rfl h
  | intUnpack len lanes => exact absurd rfl h
  | crcInit => exact .inl rfl
  | crcAppend len lanes =>
    cases hlen : c.lmax.admits len with
    | false => exact absurd (congrArg Reply.block (crcAppendReply_of_not_admits hlen)) h
    | true =>
      refine .inr ⟨len, lanes, rfl, Nat.pos_of_ne_zero ?_, hlen⟩
      rintro rfl
      exact h (congrArg Reply.block (crcAppendReply_of_admits hlen))
  | crcFinal => exact absurd rfl h

/-- A request that writes the register decodes to a command that writes it: a reserved op code writes nothing (R114). -/
theorem blockCommand_writes {c : Config} {r : Request} {b : Block} (h : (blockCommand c r b).block ≠ b) :
    ∃ i, decode r = .ok i ∧ (blockExec c i b).block ≠ b := by
  unfold blockCommand at h
  cases hd : decode r with
  | error e => simp [hd] at h
  | ok i => exact ⟨i, rfl, by simpa [hd] using h⟩

/-! ## One step -/

/-- A request, executed or answered `ERR_ILLEGAL`, is the block's own command put back on the bench. -/
theorem runCommand_eq_settle (r : Request) (s : State) :
    runCommand r s = settle (blockCommand s.cfg r s.toBlock) s := by
  unfold runCommand blockCommand
  cases decode r with
  | error e => rfl
  | ok i => exact exec_eq_settle i s

/-- An input that the host can send makes the block's own step. -/
theorem handleInput_of_sendable {i : Input} {s : State} (h : i.Sendable s.cfg) :
    handleInput i s = .next (afterInput i s) := by
  cases i with
  | reset cut => simp [handleInput, resetBlock, setCrc, afterInput, blockReset]
  | command r =>
    have hp : r.presentable s.cfg = true := h
    calc handleInput (.command r) s
      _ = runCommand r s := by simp [handleInput, hp]
      _ = settle (blockCommand s.cfg r s.toBlock) s := runCommand_eq_settle r s
      _ = .next (afterInput (.command r) s) := rfl

/-- An input that is handled is one the host can send: the port refuses every other (log entry 4). -/
theorem sendable_of_handleInput {i : Input} {s t : State} (h : handleInput i s = .next t) : i.Sendable s.cfg := by
  cases i with
  | reset cut => trivial
  | command r =>
    cases hp : r.presentable s.cfg with
    | false => simp [handleInput, hp] at h
    | true => exact hp

/-- The step on an input that the host can send. -/
theorem step_of_sendable {s : State} {i : Input} {rest : List Input} (hin : s.inputs = i :: rest)
    (h : i.Sendable s.cfg) : step s = .next (afterInput i { s with inputs := rest }) := by
  rw [step_of_inputs hin]
  exact handleInput_of_sendable h

/-- A step that answers next has waited, or has made the block's own step on the oldest input. -/
theorem step_next_cases {s t : State} (h : step s = .next t) :
    (s.inputs = [] ∧ t = s) ∨
      ∃ i rest, s.inputs = i :: rest ∧ i.Sendable s.cfg ∧ t = afterInput i { s with inputs := rest } := by
  cases hin : s.inputs with
  | nil =>
    simp only [step, takeInput, hin, Host.Outcome.next.injEq] at h
    exact .inl ⟨rfl, h.symm⟩
  | cons i rest =>
    have hs : i.Sendable s.cfg :=
      sendable_of_handleInput (s := { s with inputs := rest }) ((step_of_inputs hin).symm.trans h)
    rw [step_of_sendable hin hs, Host.Outcome.next.injEq] at h
    exact .inr ⟨i, rest, rfl, hs, h.symm⟩

/-! ## The statements -/

/-- Settles O50: a command is the block's own effect settled on the bench, and the effect of INT.PACK, INT.UNPACK and
CRC.FINAL keeps the block. -/
theorem commandFrame : Obligations.CommandFrame := by
  intro i s
  refine ⟨_, _, exec_eq_settle i s, rfl, rfl, rfl, ?_⟩
  rintro (⟨n, size, rfl⟩ | ⟨len, lanes, rfl⟩ | rfl)
  · rfl
  · rfl
  · rfl

/-- Settles O51: the responses of the INT unit are functions of the parameters and the operands. -/
theorem intResultsDependOnOperandsAlone : Obligations.IntResultsDependOnOperandsAlone := by
  rintro i s s' hcfg (⟨n, size, rfl⟩ | ⟨len, lanes, rfl⟩)
  · exact ⟨_, exec_intPack n size s, by rw [hcfg]; exact exec_intPack n size s'⟩
  · exact ⟨_, exec_intUnpack len lanes s, by rw [hcfg]; exact exec_intUnpack len lanes s'⟩

/-- Settles O52, by the inversion of the step and the block's writers. -/
theorem onlyResetInitAndAppendWriteCrc : Obligations.OnlyResetInitAndAppendWriteCrc := by
  intro s t hstep hne
  obtain ⟨-, rfl⟩ | ⟨i, rest, hin, -, rfl⟩ := step_next_cases hstep
  · exact absurd rfl hne
  · cases i with
    | reset cut => exact .inl ⟨cut, rest, hin⟩
    | command r =>
      have hw : (blockCommand s.cfg r s.toBlock).block ≠ s.toBlock := fun h => hne (congrArg Block.crc h)
      obtain ⟨i, hd, hi⟩ := blockCommand_writes hw
      obtain rfl | ⟨len, lanes, rfl, hpos, hlen⟩ := blockExec_writes hi
      · exact .inr (.inl ⟨r, rest, hin, hd⟩)
      · exact .inr (.inr ⟨r, rest, len, lanes, hin, hd, hpos, hlen⟩)

/-- Settles O55: what a step adds is what the block's own step answers. -/
theorem stepKeepsParametersAndPastResponses : Obligations.StepKeepsParametersAndPastResponses := by
  intro s t hstep
  obtain ⟨hin, rfl⟩ | ⟨i, rest, hin, -, rfl⟩ := step_next_cases hstep
  · exact ⟨rfl, [], by simp [hin]⟩
  · refine ⟨afterInput_cfg .., _, afterInput_responses .., ?_⟩
    cases i with
    | reset cut => simp [hin]
    | command r => simp [hin]

/-- Settles O58: the state after an input is defined by the block's own step. -/
theorem stepIsTheBlockStep : Obligations.StepIsTheBlockStep := by
  intro s i rest hin h
  exact step_of_sendable hin h

end Sys2Proof.Machine
end

section
/-!
SUPPORT. The order of commands and what it makes of the register (spec/20_memory.md R40, spec/30_encoding.md R54): a step runs the
command it decodes, and `crc` stays the all-ones value folded over the message so far.
-/

namespace Sys2Proof.Machine

open Sys2Proof

/-! ## The decoded command -/

/-- A request that the port can carry and that decodes to a command is handled by executing that command (R54). -/
theorem handleInput_of_decode {r : Request} {i : Instr} {s : State} (hp : r.presentable s.cfg = true)
    (hd : decode r = .ok i) : handleInput (.command r) s = exec i s :=
  calc handleInput (.command r) s
    _ = runCommand r s := by simp [handleInput, hp]
    _ = exec i s := by simp [runCommand, hd]

/-- Settles O3: the request is the oldest input, so it is the one taken off the list and handled. -/
theorem stepRunsDecodedCommand : Obligations.StepRunsDecodedCommand := by
  intro s r rest i hin hp hd
  rw [step_of_inputs hin]
  exact handleInput_of_decode hp hd

/-! ## The register and the message -/

theorem commandMessage_crcAppend_of_admits {c : Config} {len : Nat} (m lanes : List Byte)
    (h : c.lmax.admits len = true) : commandMessage c m (.crcAppend len lanes) = m ++ lanes.take len := by
  simp [commandMessage, lenTooLarge, h, byteOperand]

theorem commandMessage_crcAppend_of_not_admits {c : Config} {len : Nat} (m lanes : List Byte)
    (h : c.lmax.admits len = false) : commandMessage c m (.crcAppend len lanes) = m := by
  simp [commandMessage, lenTooLarge, h]

section
variable {b : Block} {m : List Byte} (h : b.crc = fold crcStart m)
include h

/-- A command leaves the register the fold of the message as the command changes it: CRC.INIT starts both again, and a
CRC.APPEND within `LMAX` folds in just the bytes that it appends. -/
theorem blockExec_tracks (c : Config) (i : Instr) :
    (blockExec c i b).block.crc = fold crcStart (commandMessage c m i) := by
  cases i with
  | intPack n size => exact h
  | intUnpack len lanes => exact h
  | crcInit => rfl
  | crcAppend len lanes =>
    cases hlen : c.lmax.admits len with
    | false =>
      rw [commandMessage_crcAppend_of_not_admits m lanes hlen, blockExec, crcAppendReply_of_not_admits hlen]
      exact h
    | true =>
      rw [commandMessage_crcAppend_of_admits m lanes hlen, blockExec, crcAppendReply_of_admits hlen, fold_append, h]
  | crcFinal => exact h

/-- So does every input of the host: a reset starts both again, and a reserved op code changes neither (R114). -/
theorem blockStep_tracks (c : Config) (i : Input) :
    (blockStep c i b).1.crc = fold crcStart (inputMessage c m i) := by
  cases i with
  | reset cut => rfl
  | command r =>
    simp only [blockStep_command, blockCommand, inputMessage]
    cases decode r with
    | error e => exact h
    | ok i => exact blockExec_tracks h c i

end

/-- Settles O56: a step waits, or is the block's own step on the oldest input, which tracks the message. -/
theorem stepTracksTheMessage : Obligations.StepTracksTheMessage := by
  intro s t m h hstep
  obtain ⟨hin, rfl⟩ | ⟨i, rest, hin, -, rfl⟩ := step_next_cases hstep
  · rw [hin]
    exact h
  · rw [hin]
    exact blockStep_tracks h s.cfg i

end Sys2Proof.Machine
end

section
/-!
SUPPORT. Requests and responses field by field (spec/30_encoding.md): the op-code map (R53), the fields that a format reads
(R52), the fields of a packed word (R51), and the result fields that a command drives (R58).
-/

namespace Sys2Proof.Machine

open Sys2Proof

/-! ## The decoder -/

/-- Settles O8: the decoder computes on each of the eight op codes. -/
theorem opcodeMap : Obligations.OpcodeMap := by
  rintro ⟨op, size, len, val, lanes⟩
  refine ⟨?_, ?_, ?_, ?_, ?_, ?_⟩
  · rintro (rfl | rfl | rfl)
    · rfl
    · rfl
    · rfl
  all_goals
    rintro rfl
    rfl

/-- The decoder reads the op code and the fields of its format, and no other (R52). -/
theorem decode_congr {r r' : Request} (hop : r.op = r'.op) (hP : r.op = 1 → r.val = r'.val ∧ r.size = r'.size)
    (hB : r.op = 2 ∨ r.op = 4 → r.len = r'.len ∧ r.lanes.take r.len = r'.lanes.take r.len) :
    decode r = decode r' := by
  obtain ⟨reserved, pack, unpack, init, append, final⟩ := opcodeMap r'
  rw [← hop] at reserved pack unpack init append final
  rcases decode_cases r with ⟨h, e⟩ | ⟨h, e⟩ | ⟨h, e⟩ | ⟨h, e⟩ | ⟨h, e⟩ | ⟨h, e⟩
  · rw [e, reserved h]
  · obtain ⟨hval, hsize⟩ := hP h
    rw [e, pack h, hval, hsize]
  · obtain ⟨hlen, hlanes⟩ := hB (.inl h)
    rw [e, unpack h, hlanes, hlen]
  · rw [e, init h]
  · obtain ⟨hlen, hlanes⟩ := hB (.inr h)
    rw [e, append h, hlanes, hlen]
  · rw [e, final h]

/-- Of a request that the port can carry, the block sees what the decoder reads and nothing else. -/
theorem handleInput_congr_decode {r r' : Request} {s : State} (hp : r.presentable s.cfg = true)
    (hp' : r'.presentable s.cfg = true) (hd : decode r = decode r') :
    handleInput (.command r) s = handleInput (.command r') s :=
  calc handleInput (.command r) s
    _ = runCommand r s := by simp [handleInput, hp]
    _ = runCommand r' s := by simp [runCommand, hd]
    _ = handleInput (.command r') s := by simp [handleInput, hp']

/-- Settles O9: the two requests decode alike, and the step sees nothing else of them. -/
theorem unreadFieldsAreIgnored : Obligations.UnreadFieldsAreIgnored := by
  intro s r r' rest hp hp' hop hP hB
  rw [step_of_inputs rfl, step_of_inputs rfl]
  exact handleInput_congr_decode hp hp' (decode_congr hop hP hB)

/-! ## The packed word -/

/-- What the port of a bounded block can carry, as bounds on the fields (R50). -/
theorem presentable_finite_iff {K S : Nat} {r : Request} :
    r.presentable { K := .finite K, S := .finite S } = true ↔
      r.size < 2 ^ fieldBits S ∧ r.len < 2 ^ fieldBits (max K S) ∧ r.val < 2 ^ (8 * K) ∧
        r.lanes.length = max K S := by
  simp [presentable_iff, sizeFits, lenFits, valueFits, laneCountFits, Config.lmax, Bound.join]

/-- A packed word as its lowest field below all the others, and so on upwards (R51). -/
def packedNumber (K S : Nat) (r : Request) : Nat :=
  r.op.toNat + 2 ^ 3 * (r.size + 2 ^ fieldBits S * (r.len + 2 ^ fieldBits (max K S) *
    (r.val + 2 ^ (8 * K) * lanesNumber r.lanes)))

theorem toWord_eq_packedNumber (K S : Nat) (r : Request) :
    Request.toWord { K := .finite K, S := .finite S } r = .ok (packedNumber K S r) := by
  simp only [Request.toWord, packedNumber, laneOffset, valOffset, lenOffset, Nat.pow_add, Except.ok.injEq]
  ring

section
variable {K S : Nat} {r : Request}

theorem packedNumber_mod_op : packedNumber K S r % 2 ^ 3 = r.op.toNat :=
  (numeral_bit_field r.op.isLt).1

theorem packedNumber_div_op :
    packedNumber K S r / 2 ^ 3
      = r.size + 2 ^ fieldBits S * (r.len + 2 ^ fieldBits (max K S) * (r.val + 2 ^ (8 * K) * lanesNumber r.lanes)) :=
  (numeral_bit_field r.op.isLt).2

variable (hsize : r.size < 2 ^ fieldBits S) (hlen : r.len < 2 ^ fieldBits (max K S)) (hval : r.val < 2 ^ (8 * K))
include hsize

theorem packedNumber_div_size :
    packedNumber K S r / 2 ^ (3 + fieldBits S)
      = r.len + 2 ^ fieldBits (max K S) * (r.val + 2 ^ (8 * K) * lanesNumber r.lanes) := by
  rw [Nat.pow_add, ← Nat.div_div_eq_div_mul, packedNumber_div_op, (numeral_bit_field hsize).2]

include hlen

theorem packedNumber_div_len :
    packedNumber K S r / 2 ^ (3 + fieldBits S + fieldBits (max K S)) = r.val + 2 ^ (8 * K) * lanesNumber r.lanes := by
  rw [Nat.pow_add, ← Nat.div_div_eq_div_mul, packedNumber_div_size hsize, (numeral_bit_field hlen).2]

include hval

theorem packedNumber_div_val :
    packedNumber K S r / 2 ^ (3 + fieldBits S + fieldBits (max K S) + 8 * K) = lanesNumber r.lanes := by
  rw [Nat.pow_add, ← Nat.div_div_eq_div_mul, packedNumber_div_len hsize hlen, (numeral_bit_field hval).2]

end

/-- A number has no bit above a field that holds all of its upper part. -/
theorem lt_two_pow_add {w lo n : Nat} (h : w / 2 ^ lo < 2 ^ n) : w < 2 ^ (lo + n) := by
  rwa [Nat.pow_add, Nat.mul_comm, ← Nat.div_lt_iff_lt_mul (Nat.two_pow_pos lo)]

/-- A block with `K` or `S` unbounded has no packed word (R51). -/
theorem noPackedWord_of_omega {c : Config} (h : c.K = .omega ∨ c.S = .omega) (r : Request) (w : Nat) :
    Request.toWord c r = .error .noPackedWord ∧ Request.ofWord c w = .error .noPackedWord := by
  obtain ⟨K, S⟩ := c
  rcases h with rfl | rfl
  · exact ⟨rfl, rfl⟩
  · cases K <;> exact ⟨rfl, rfl⟩

/-- Settles O13: each field is the remainder, modulo its own width, of what is left of the word above the lower fields. -/
theorem packedWordLayout : Obligations.PackedWordLayout := by
  refine ⟨fun K S r hp => ?_, by decide, fun c r w h => noPackedWord_of_omega h r w⟩
  obtain ⟨hsize, hlen, hval, hcount⟩ := presentable_finite_iff.1 hp
  have above := packedNumber_div_val hsize hlen hval
  refine ⟨packedNumber K S r, toWord_eq_packedNumber K S r, packedNumber_mod_op, ?_, ?_, ?_, fun i hi => ?_, ?_⟩
  · rw [packedNumber_div_op, (numeral_bit_field hsize).1]
  · rw [packedNumber_div_size hsize, (numeral_bit_field hlen).1]
  · rw [packedNumber_div_len hsize hlen, (numeral_bit_field hval).1]
  · rw [Nat.pow_add _ _ (8 * i), ← Nat.div_div_eq_div_mul, above]
    exact lanesNumber_div r.lanes i (hcount ▸ hi)
  · apply lt_two_pow_add
    rw [above, ← hcount]
    exact lanesNumber_lt r.lanes

/-! ## The result fields -/

/-- The one response that a command delivers is the block's own. -/
theorem response_of_exec {i : Instr} {s t : State} {x : Response} (h : exec i s = .next t)
    (hx : t.responses = s.responses ++ [x]) : x = (blockExec s.cfg i s.toBlock).response := by
  rw [exec_eq_settle] at h
  exact (next_deliver_inj h hx).2

/-- The fixed-width encoding is the digits themselves: the zeros on the left are the leading digits (R73, R75). -/
theorem pack_eq_bigEndian (n size : Nat) : pack n size = bigEndian (max size (natlen n)) n := by
  unfold pack natbytes
  split
  case isTrue h =>
    rw [← bigEndian_add _ _ _ (lt_pow_natlen n), Nat.sub_add_cancel h.le, max_eq_left h.le]
  case isFalse h => rw [max_eq_right (Nat.le_of_not_lt h)]

theorem length_pack (n size : Nat) : (pack n size).length = max size (natlen n) := by
  rw [pack_eq_bigEndian, bigEndian_length]

section
variable (c : Config) (Q : Prop)

/-- An error leaves every result field zero, whatever its command would have driven (R58, R114). -/
theorem fields_of_error {st : Status} (h : st ≠ .ok) :
    ((valueResponse c st 0).status ≠ .ok → (valueResponse c st 0).len = 0 ∧ (valueResponse c st 0).val = 0 ∧
      ∀ b ∈ (valueResponse c st 0).lanes, b = 0#8) ∧ ((valueResponse c st 0).status = .ok → Q) :=
  ⟨fun _ => ⟨rfl, rfl, valueResponse_lanes_zero c st 0⟩, fun hok => absurd hok h⟩

/-- On `OK` a response without a byte sequence drives `rsp_val` alone (R58). -/
theorem fields_of_value (v : Nat) :
    ((valueResponse c .ok v).status ≠ .ok → Q) ∧ ((valueResponse c .ok v).status = .ok →
      (valueResponse c .ok v).len = 0 ∧ (valueResponse c .ok v).val = v ∧
        ∀ b ∈ (valueResponse c .ok v).lanes, b = 0#8) :=
  ⟨fun hne => absurd rfl hne, fun _ => ⟨rfl, rfl, valueResponse_lanes_zero c .ok v⟩⟩

/-- On `OK` a byte sequence drives `rsp_len` and its own lanes (R58). -/
theorem fields_of_bytes {b : List Byte} {n : Nat} (h : b.length = n) :
    ((bytesResponse c b).status ≠ .ok → Q) ∧ ((bytesResponse c b).status = .ok →
      (bytesResponse c b).len = n ∧ (bytesResponse c b).val = 0 ∧
        (bytesResponse c b).lanes.take (bytesResponse c b).len = b ∧
        ∀ y ∈ (bytesResponse c b).lanes.drop (bytesResponse c b).len, y = 0#8) :=
  ⟨fun hne => absurd rfl hne, fun _ => ⟨h, rfl, take_onLanes c.lmax b, onLanes_zero_above c.lmax b⟩⟩

end

/-- Settles O48, command by command: the answer is an error, a value or a byte sequence. -/
theorem undrivenFieldsAreZero : Obligations.UndrivenFieldsAreZero := by
  intro i s t x h hx
  obtain rfl := response_of_exec h hx
  cases i with
  | intPack n size =>
    rw [blockExec, keepBlock_response]
    cases hsize : s.cfg.S.admits size with
    | false =>
      rw [intPackResponse_of_not_admits hsize]
      exact fields_of_error _ _ nofun
    | true =>
      rw [intPackResponse_of_admits hsize, ← pack_eq_bigEndian]
      exact fields_of_bytes _ _ (length_pack n size)
  | intUnpack len lanes =>
    rw [blockExec, keepBlock_response]
    cases hlen : s.cfg.lmax.admits len with
    | false =>
      rw [intUnpackResponse_of_not_admits hlen]
      exact fields_of_error _ _ nofun
    | true =>
      cases hv : outOfRange s.cfg (unpack (lanes.take len)) with
      | true =>
        rw [intUnpackResponse_of_outOfRange hlen hv]
        exact fields_of_error _ _ nofun
      | false =>
        rw [intUnpackResponse_of_inRange hlen hv]
        exact fields_of_value _ _ _
  | crcInit => exact fields_of_value _ _ _
  | crcAppend len lanes =>
    rw [blockExec]
    cases hlen : s.cfg.lmax.admits len with
    | false =>
      rw [crcAppendReply_of_not_admits hlen]
      exact fields_of_error _ _ nofun
    | true =>
      rw [crcAppendReply_of_admits hlen]
      exact fields_of_value _ _ _
  | crcFinal => exact fields_of_value _ _ _

end Sys2Proof.Machine
end

section
/-!
SUPPORT. Numbers as byte sequences (spec/40_int_pack.md section 1): the length and the digits of a number (R71, R73), the value
of a byte sequence (R74), and how many bytes of it a bound on the value leaves free (R80).
-/

namespace Sys2Proof.Machine

open Sys2Proof

/-! ## The digits of a number -/

/-- A number is longer than `L` bytes just when it is `256^L` or more (R76). -/
theorem lt_natlen_iff {n L : Nat} (hL : 1 ≤ L) : L < natlen n ↔ 256 ^ L ≤ n := by
  rw [← not_le, natlen_le_iff hL, not_lt]

/-- A positive number reaches the place of its first digit. -/
theorem pow_le_of_natlen_eq_succ {n L : Nat} (hn : 0 < n) (h : natlen n = L + 1) : 256 ^ L ≤ n := by
  rcases Nat.eq_zero_or_pos L with rfl | hL
  · exact hn
  · exact (lt_natlen_iff hL).1 (by omega)

theorem bigEndian_digit {len n i : Nat} (h : i < len) :
    ((bigEndian len n)[i]?).map BitVec.toNat = some (n / 256 ^ (len - 1 - i) % 256) := by
  rw [bigEndian_getElem? h]
  rfl

theorem natbytes_length (n : Nat) : (natbytes n).length = natlen n :=
  bigEndian_length _ _

/-- The natural encoding of a positive number has no zero in front (R71): the number reaches the place of its first digit,
and stays below the next place. -/
theorem natbytes_head_ne_zero {n : Nat} (hn : 0 < n) : (natbytes n)[0]? ≠ some 0#8 := by
  obtain ⟨L, hL⟩ := Nat.exists_eq_add_one.2 (natlen_pos n)
  have hlow : 0 < n / 256 ^ L := Nat.div_pos (pow_le_of_natlen_eq_succ hn hL) (Nat.pow_pos (by decide))
  have hhigh : n / 256 ^ L < 256 := Nat.div_lt_of_lt_mul (by simpa only [hL, Nat.pow_succ] using lt_pow_natlen n)
  rw [natbytes, hL, bigEndian_cons, List.getElem?_cons_zero, ne_eq, Option.some.injEq, ← BitVec.toNat_inj,
    BitVec.toNat_ofNat, Nat.mod_eq_of_lt hhigh]
  exact hlow.ne'

/-- A number that fills its slot is not padded (R73, R76). -/
theorem pack_of_le_natlen {n size : Nat} (h : size ≤ natlen n) : pack n size = natbytes n :=
  if_neg (not_lt.2 h)

theorem pack_digit {n size i : Nat} (h : i < max size (natlen n)) :
    ((pack n size)[i]?).map BitVec.toNat = some (n / 256 ^ (max size (natlen n) - 1 - i) % 256) := by
  rw [pack_eq_bigEndian]
  exact bigEndian_digit h

/-- Settles O16: the least length is the bound of `natlen_le_iff`, and the bytes are the digits of `bigEndian`. -/
theorem naturalEncoding : Obligations.NaturalEncoding := by
  refine ⟨fun n => ⟨natlen_pos n, lt_pow_natlen n, fun L hL => (natlen_le_iff hL).2⟩,
    fun n => ⟨natbytes_length n, fun i => bigEndian_digit⟩, fun n => natbytes_head_ne_zero, ?_⟩
  decide

/-- Settles O18: padded or not, the bytes are the digits at the larger of the two lengths. -/
theorem fixedWidthEncoding : Obligations.FixedWidthEncoding := by
  intro n size
  exact ⟨fun h => if_pos h, pack_of_le_natlen, length_pack n size, fun i => pack_digit⟩

/-! ## The value of a byte sequence -/

/-- The byte in front counts `256^len` for the `len` bytes behind it. -/
theorem unpack_cons (x : Byte) (b : List Byte) : unpack (x :: b) = x.toNat * 256 ^ b.length + unpack b := by
  have h := unpack_append [x] b
  rwa [List.singleton_append, show unpack [x] = x.toNat by simp [unpack, unpackStep]] at h

theorem positionalSum_cons (x : Byte) (b : List Byte) :
    positionalSum (x :: b) = x.toNat * 256 ^ b.length + positionalSum b := by
  unfold positionalSum
  rw [List.length_cons, List.range_succ_eq_map, List.map_cons, List.map_map, List.sum_cons]
  congr 2
  apply List.map_congr_left
  intro i _
  have hplace : b.length - (i + 1) = b.length - 1 - i := by omega
  simp [hplace]

theorem unpack_eq_positionalSum (b : List Byte) : unpack b = positionalSum b := by
  induction b with
  | nil => rfl
  | cons x b ih => rw [unpack_cons, positionalSum_cons, ih]

theorem unpack_replicate_zero_append (k : Nat) (b : List Byte) : unpack (List.replicate k 0#8 ++ b) = unpack b := by
  induction k with
  | zero => rfl
  | succ k ih => rw [List.replicate_succ, List.cons_append, unpack_cons, ih, BitVec.toNat_zero, Nat.zero_mul, Nat.zero_add]

/-- Settles O19, by induction along the sequence from its first byte. -/
theorem valueOfByteSequence : Obligations.ValueOfByteSequence :=
  ⟨fun b => ⟨unpack_eq_positionalSum b, unpack_lt b⟩, unpack_nil, unpack_concat, unpack_replicate_zero_append⟩

/-! ## The bytes above a bound on the value -/

/-- The bytes in front of the last `K` have the value divided by `256^K`. -/
theorem unpack_take_sub (b : List Byte) (K : Nat) : unpack (b.take (b.length - K)) = unpack b / 256 ^ K := by
  rcases Nat.le_total b.length K with h | h
  · have hlt : unpack b < 256 ^ K := lt_of_lt_of_le (unpack_lt b) (Nat.pow_le_pow_right (by decide) h)
    rw [Nat.sub_eq_zero_of_le h, List.take_zero, unpack_nil, Nat.div_eq_of_lt hlt]
  · have hsplit := unpack_append (b.take (b.length - K)) (b.drop (b.length - K))
    have hrest := unpack_lt (b.drop (b.length - K))
    rw [List.length_drop, Nat.sub_sub_self h] at hsplit hrest
    rw [List.take_append_drop] at hsplit
    rw [hsplit, Nat.mul_comm, Nat.mul_add_div (Nat.pow_pos (by decide)), Nat.div_eq_of_lt hrest, Nat.add_zero]

/-- The value is positive just when some byte is not zero. -/
theorem unpack_pos_iff (b : List Byte) : 0 < unpack b ↔ ∃ y ∈ b, y ≠ 0 := by
  induction b with
  | nil => simp
  | cons x b ih =>
    have hx : 0 < x.toNat * 256 ^ b.length ↔ x ≠ 0 := by
      rw [Nat.mul_pos_iff_of_pos_right (Nat.pow_pos (by decide)), Nat.pos_iff_ne_zero, ne_eq, ne_eq, BitVec.toNat_eq]
      rfl
    rw [unpack_cons, Nat.add_pos_iff_pos_or_pos, hx, ih, List.exists_mem_cons_iff]

/-- The value needs more than `K` bytes just when a byte in front of the last `K` is not zero (R80). -/
theorem pow_le_unpack_iff (b : List Byte) (K : Nat) :
    256 ^ K ≤ unpack b ↔ ∃ i y, i + K < b.length ∧ b[i]? = some y ∧ y ≠ 0 := by
  have hpos : 256 ^ K ≤ unpack b ↔ 0 < unpack (b.take (b.length - K)) := by
    rw [unpack_take_sub, Nat.div_pos_iff, and_iff_right (Nat.pow_pos (by decide))]
  rw [hpos, unpack_pos_iff]
  constructor
  · rintro ⟨y, hmem, hy⟩
    obtain ⟨i, hi, rfl⟩ := List.mem_take_iff_getElem.1 hmem
    exact ⟨i, _, by omega, List.getElem?_eq_getElem _, hy⟩
  · rintro ⟨i, y, hlt, hi, hy⟩
    obtain ⟨hi, rfl⟩ := List.getElem?_eq_some_iff.1 hi
    exact ⟨_, List.mem_take_iff_getElem.2 ⟨i, by omega, rfl⟩, hy⟩

end Sys2Proof.Machine
end

section
/-!
SUPPORT. The commands of the INT unit (spec/40_int_pack.md sections 2 and 3): what INT.PACK puts on the lanes (R75 to R77), and
which of its three answers INT.UNPACK gives (R79, R80).
-/

namespace Sys2Proof.Machine

open Sys2Proof

/-! ## INT.PACK -/

section
variable {c : Config} {n size : Nat}

theorem valueFits_of_finite {k : Nat} (h : c.K = .finite k) : valueFits c n = true ↔ n < 256 ^ k := by
  simp [valueFits, h, pow_256]

/-- A number that the value field holds has at most `K` bytes (R6). -/
theorem admits_natlen (hwf : c.wf = true) (hn : valueFits c n = true) : c.K.admits (natlen n) = true := by
  cases hK : c.K with
  | finite k =>
    have hk : 4 ≤ k := by simpa [Config.wf, hK] using hwf
    exact decide_eq_true ((natlen_le_iff (by omega)).2 ((valueFits_of_finite hK).1 hn))
  | omega => rfl

/-- The packed number always fits the lanes, whichever of its two lengths is the larger (R7, R75). -/
theorem lmax_admits_pack (hwf : c.wf = true) (hn : valueFits c n = true) (hsize : c.S.admits size = true) :
    c.lmax.admits (pack n size).length = true := by
  rw [length_pack, Config.lmax, Bound.join_admits, Bool.or_eq_true]
  rcases max_choice size (natlen n) with h | h
  · rw [h]
    exact .inr hsize
  · rw [h]
    exact .inl (admits_natlen hwf hn)

/-- A byte of the sequence is on the lane of its own number. -/
theorem onLanes_getElem? {m : Bound} {b : List Byte} {i : Nat} (h : i < b.length) : (onLanes m b)[i]? = b[i]? := by
  rw [← List.getElem?_take_of_lt h, take_onLanes]

/-- Within `S`, INT.PACK delivers the fixed-width encoding (R75). -/
theorem exec_intPack_pack {s : State} (h : s.cfg.S.admits size = true) :
    exec (.intPack n size) s = .next (deliver (bytesResponse s.cfg (pack n size)) s) := by
  rw [execIntPack_of_admits h, pack_eq_bigEndian]

/-- A number as long as its slot, or longer, is delivered whole and without padding (R76). -/
theorem exec_intPack_natbytes {s : State} (h : s.cfg.S.admits size = true) (hle : size ≤ natlen n) :
    exec (.intPack n size) s = .next (deliver (bytesResponse s.cfg (natbytes n)) s) := by
  rw [exec_intPack_pack h, pack_of_le_natlen hle]

end

/-- Settles O23: above `S` the answer is the error, and within it the lanes carry `pack(n, size)`. -/
theorem intPackResult : Obligations.IntPackResult := by
  refine ⟨fun n size s hwf hn hsize => ?_, fun n size s hsize => ?_, by decide⟩
  · have hfit := lmax_admits_pack hwf hn hsize
    have hlen := length_pack n size
    refine ⟨_, exec_intPack_pack hsize, rfl, hlen, hfit, rfl, length_onLanes _ _ hfit, take_onLanes _ _, ?_,
      onLanes_zero_above _ _⟩
    intro i hi
    rw [bytesResponse_len] at hi ⊢
    calc ((onLanes s.cfg.lmax (pack n size))[i]?).map BitVec.toNat
      _ = ((pack n size)[i]?).map BitVec.toNat := by rw [onLanes_getElem? hi]
      _ = some (n / 256 ^ ((pack n size).length - 1 - i) % 256) := by rw [hlen, pack_digit (hlen ▸ hi)]
  · exact ⟨_, execIntPack_of_not_admits hsize, rfl⟩

/-- Settles O24: the natural encoding is delivered as it is. -/
theorem slotOverflowIsNotTruncated : Obligations.SlotOverflowIsNotTruncated := by
  refine ⟨fun n size => lt_natlen_iff, fun n size s _ _ hsize hle => ?_, by decide⟩
  exact ⟨_, exec_intPack_natbytes hsize hle, rfl, natbytes_length n, take_onLanes _ _, rfl⟩

/-- Settles O25: the slot of size 0 is one that every natural encoding fills. -/
theorem packWithSizeZero : Obligations.PackWithSizeZero := by
  refine ⟨fun n s _ _ => ?_, by decide⟩
  have hlen := natbytes_length n
  exact ⟨_, exec_intPack_natbytes (admits_zero _) (Nat.zero_le _), rfl, rfl, (natlen_pos n).trans_eq hlen.symm, hlen,
    take_onLanes _ _⟩

/-! ## INT.UNPACK -/

section
variable {s : State} {len : Nat} {lanes : List Byte} (hlen : s.cfg.lmax.admits len = true)
include hlen

/-- A value that the lane holds is delivered (R79). -/
theorem exec_intUnpack_of_fits (hv : valueFits s.cfg (unpack (lanes.take len)) = true) :
    exec (.intUnpack len lanes) s = .next (deliver (valueResponse s.cfg .ok (unpack (lanes.take len))) s) :=
  execIntUnpack_of_inRange hlen (by rw [outOfRange_eq, hv]; rfl)

/-- A value that the lane does not hold is answered `ERR_RANGE` (R79). -/
theorem exec_intUnpack_of_not_fits (hv : valueFits s.cfg (unpack (lanes.take len)) = false) :
    exec (.intUnpack len lanes) s = .next (deliver (valueResponse s.cfg .errRange 0) s) :=
  execIntUnpack_of_outOfRange hlen (by rw [outOfRange_eq, hv]; rfl)

/-- Within `LMAX`, `ERR_RANGE` is the answer just when the value does not fit its lane (R79, R80). -/
theorem intUnpack_errRange_iff :
    (∃ x : Response, exec (.intUnpack len lanes) s = .next { s with responses := s.responses ++ [x] } ∧
      x.status = .errRange ∧ x.val = 0) ↔ valueFits s.cfg (unpack (lanes.take len)) = false := by
  constructor
  · rintro ⟨x, hexec, hstatus, -⟩
    by_contra hv
    rw [exec_intUnpack_of_fits hlen (Bool.eq_true_of_not_eq_false hv)] at hexec
    obtain ⟨-, rfl⟩ := next_deliver_inj hexec rfl
    cases hstatus
  · intro hv
    exact ⟨_, exec_intUnpack_of_not_fits hlen hv, rfl, rfl⟩

end

/-- Settles O27: one equation for each of the three answers. -/
theorem intUnpackResult : Obligations.IntUnpackResult := by
  refine ⟨fun len lanes s hlen hv => ?_, fun len lanes s hlen hv => ?_, fun len lanes s hlen => ?_, by decide⟩
  · exact ⟨_, exec_intUnpack_of_fits hlen hv, rfl, rfl, rfl, valueResponse_lanes_length _ _ _,
      valueResponse_lanes_zero _ _ _⟩
  · exact ⟨_, exec_intUnpack_of_not_fits hlen hv, rfl⟩
  · exact ⟨_, execIntUnpack_of_not_admits hlen, rfl⟩

/-- Settles O28: within `LMAX` the answer is `ERR_RANGE` just when the value does not fit, and it does not fit just when a
byte in front of the last `K` is not zero. -/
theorem intUnpackCorners : Obligations.IntUnpackCorners := by
  refine ⟨fun s => ?_, by decide, fun K b s hK hlen => ?_, fun b s hK => ?_, fun s hcfg => ⟨?_, ?_⟩⟩
  · exact ⟨_, exec_intUnpack_of_fits (admits_zero _) (valueFits_zero _), rfl, rfl⟩
  · rw [intUnpack_errRange_iff hlen, List.take_length, ← Bool.not_eq_true, valueFits_of_finite hK, not_lt]
    exact pow_le_unpack_iff b K
  · have hlen : s.cfg.lmax.admits b.length = true := by rw [Config.lmax, hK]; rfl
    have hv : valueFits s.cfg (unpack (b.take b.length)) = true := by rw [valueFits, hK]
    exact ⟨_, exec_intUnpack_of_fits hlen hv, rfl, by rw [valueResponse_val, List.take_length]⟩
  · exact ⟨_, exec_intUnpack_of_fits (by rw [hcfg]; decide) (by rw [hcfg]; decide), rfl, rfl⟩
  · exact ⟨_, exec_intUnpack_of_not_fits (by rw [hcfg]; decide) (by rw [hcfg]; decide), rfl, rfl⟩

end Sys2Proof.Machine
end

section
/-!
SUPPORT. The commands of the CRC unit (spec/41_crc32.md sections 3 to 6): the fold of one byte at exact widths (R92), and what
CRC.INIT (R94), CRC.APPEND (R96) and CRC.FINAL (R100, R101) answer and leave in the register.
-/

namespace Sys2Proof.Machine

open Sys2Proof

/-! ## The fold of one byte -/

section
variable (c : Word32) (x : Byte)

/-- The mask of the table index is the low byte, zero-extended. -/
theorem and_byte_mask : c &&& 0xFF#32 = (c.extractLsb' 0 8).setWidth 32 := by
  apply BitVec.eq_of_toNat_eq
  calc c.toNat &&& (2 ^ 8 - 1)
    _ = c.toNat % 2 ^ 8 := Nat.and_two_pow_sub_one_eq_mod _ 8
    _ = ((c.extractLsb' 0 8).setWidth 32).toNat := by simp; omega

/-- The byte meets the low byte of the register. -/
theorem xor_byte_low : (c ^^^ x.setWidth 32).extractLsb' 0 8 = c.extractLsb' 0 8 ^^^ x := by
  ext i hi
  have hword : i < 32 := by omega
  simp [hi, hword]

/-- The byte leaves the 24 bits above untouched. -/
theorem xor_byte_high : (c ^^^ x.setWidth 32).extractLsb' 8 24 = c.extractLsb' 8 24 := by
  ext i hi
  simp

/-- The table index of the fold is the low byte of the register exclusive-or the byte (R92). -/
theorem foldb_eq : foldb c x = (c >>> 8) ^^^ tab (c.extractLsb' 0 8 ^^^ x) := by
  rw [foldb, foldb_index, BitVec.setWidth_eq_extractLsb' (by decide)]

/-- The shift of the fold brings the upper 24 bits down (R92, R99). -/
theorem shift_byte_low : (c >>> 8).extractLsb' 0 24 = c.extractLsb' 8 24 := by
  ext i hi
  simp

/-- The shift of the fold is logical: zeros come in from above (R92, R99). -/
theorem shift_byte_high : (c >>> 8).extractLsb' 24 8 = 0#8 := by
  ext i hi
  have habove : c.getLsbD (8 + (24 + i)) = false := BitVec.getLsbD_of_ge c _ (by omega)
  simpa using habove

theorem shift_byte_toNat : (c >>> 8).toNat = c.toNat / 256 := by
  rw [BitVec.toNat_ushiftRight, Nat.shiftRight_eq_div_pow]

end

/-- Settles O31: the byte and the mask act on the low byte, and the shift on the bits above it. -/
theorem foldOfOneByte : Obligations.FoldOfOneByte := by
  intro c x
  refine ⟨foldb_eq c x, xor_byte_high c x, ?_, shift_byte_low c, shift_byte_high c, shift_byte_toNat c⟩
  rw [and_byte_mask, xor_byte_low]

/-! ## CRC.INIT and CRC.APPEND -/

/-- Settles O34: CRC.INIT delivers a response without a result. -/
theorem crcInitResult : Obligations.CrcInitResult := by
  intro s
  exact ⟨_, execCrcInit_eq, rfl, rfl, rfl, valueResponse_lanes_length _ _ _, valueResponse_lanes_zero _ _ _⟩

/-- Settles O35: within `LMAX` the bytes are folded, above it the answer is the error; and the fold of the rule's one byte. -/
theorem crcAppendResult : Obligations.CrcAppendResult := by
  refine ⟨fun len lanes s hlen => ?_, fun len lanes s hlen => ?_, fun s hcrc hlen => ?_⟩
  · exact ⟨_, execCrcAppend_of_admits hlen, rfl, rfl, rfl, valueResponse_lanes_length _ _ _,
      valueResponse_lanes_zero _ _ _⟩
  · exact ⟨_, execCrcAppend_of_not_admits hlen, rfl⟩
  · refine ⟨_, execCrcAppend_of_admits hlen, ?_⟩
    rw [deliver_crc, setCrc_crc, hcrc]
    decide

/-! ## CRC.FINAL -/

/-- The value lane of a legal block carries every 32-bit value (R6, R100). -/
theorem valueFits_word {c : Config} (hwf : c.wf = true) (v : Word32) : valueFits c v.toNat = true := by
  cases hK : c.K with
  | finite k =>
    have hk : 4 ≤ k := by simpa [Config.wf, hK] using hwf
    exact (valueFits_of_finite hK).2 (lt_of_lt_of_le v.isLt (Nat.pow_le_pow_right (n := 256) (by decide) hk))
  | omega => rw [valueFits, hK]

/-- Settles O37: the complement at 32 bits is the distance to all ones, and the exclusive-or with all ones. -/
theorem crcFinalResult : Obligations.CrcFinalResult := by
  intro s
  refine ⟨_, execCrcFinal_eq, rfl, BitVec.toNat_not, ?_, fun hwf => valueFits_word hwf _, rfl,
    valueResponse_lanes_length _ _ _, valueResponse_lanes_zero _ _ _⟩
  exact congrArg BitVec.toNat (BitVec.allOnes_xor (x := s.crc)).symm

/-- A list of commands goes on from where its first command ends (R40). -/
theorem execAll_cons_of_next {i : Instr} {s t : State} (h : exec i s = .next t) (rest : List Instr) :
    execAll (i :: rest) s = execAll rest t := by
  rw [execAll, h]

/-- A list of one command is that command. -/
theorem execAll_singleton (i : Instr) (s : State) : execAll [i] s = exec i s := by
  obtain ⟨c, x, h⟩ := exec_shape i s
  rw [execAll_cons_of_next h, h, execAll]

/-- The register after a command is the one of the block's own command. -/
theorem crc_of_exec {i : Instr} {s t : State} (h : exec i s = .next t) :
    t.crc = (blockExec s.cfg i s.toBlock).block.crc := by
  rw [exec_eq_settle] at h
  cases h
  rfl

/-- Settles O38: CRC.FINAL keeps the register, so the next command finds what it would find without it. -/
theorem crcFinalCorners : Obligations.CrcFinalCorners := by
  refine ⟨fun s hcrc => ?_, fun s => ?_, fun s t u len lanes ht hu => ?_, by decide, fun s hcrc => ?_⟩
  · exact ⟨_, execCrcFinal_eq, rfl, by rw [valueResponse_val, hcrc]; decide⟩
  · refine ⟨valueResponse s.cfg .ok (~~~ s.crc).toNat, ?_, rfl, rfl⟩
    rw [execAll_cons_of_next execCrcFinal_eq, execAll_singleton, execCrcFinal_eq, deliver, deliver_responses,
      List.append_assoc]
    rfl
  · rw [execAll_cons_of_next execCrcFinal_eq, execAll_singleton] at ht
    exact (crc_of_exec ht).trans (crc_of_exec hu).symm
  · exact ⟨_, execCrcFinal_eq, rfl, by rw [valueResponse_val, hcrc]; decide⟩

end Sys2Proof.Machine
end

section
/-!
SUPPORT. The status of a command (spec/60_exceptions.md R112 to R116): which one each command and each request is answered
with, in the order of spec/30_encoding.md R54, and the one effect that every error has.
-/

namespace Sys2Proof.Machine

open Sys2Proof

/-! ## The status of a command -/

/-- The status that a command is answered with, its tests in the order of R115; `blockExec_status` ties it to the block. -/
def commandStatus (c : Config) : Instr → Status
  | .intPack _ size => if c.S.admits size then .ok else .errOperand
  | .intUnpack len lanes =>
    if c.lmax.admits len then if valueFits c (unpack (lanes.take len)) then .ok else .errRange else .errOperand
  | .crcInit => .ok
  | .crcAppend len _ => if c.lmax.admits len then .ok else .errOperand
  | .crcFinal => .ok

/-- A command without an error answers `OK`. -/
theorem blockExec_status_of_ok {c : Config} {i : Instr} (b : Block) (h : commandStatus c i = .ok) :
    (blockExec c i b).response.status = .ok := by
  cases i with
  | intPack n size =>
    have hsize : c.S.admits size = true := by simpa [commandStatus] using h
    rw [blockExec, keepBlock_response, intPackResponse_of_admits hsize, bytesResponse_status]
  | intUnpack len lanes =>
    obtain ⟨hlen, hv⟩ : c.lmax.admits len = true ∧ valueFits c (unpack (lanes.take len)) = true := by
      simpa [commandStatus, ite_eq_iff] using h
    rw [blockExec, keepBlock_response, intUnpackResponse_of_inRange hlen (by rw [outOfRange_eq, hv]; rfl),
      valueResponse_status]
  | crcInit => rfl
  | crcAppend len lanes =>
    have hlen : c.lmax.admits len = true := by simpa [commandStatus] using h
    rw [blockExec, crcAppendReply_of_admits hlen, valueResponse_status]
  | crcFinal => rfl

/-- A command with an error does what every error does, and nothing of its own (R114). -/
theorem blockExec_of_error {c : Config} {i : Instr} (b : Block) (h : commandStatus c i ≠ .ok) :
    blockExec c i b = raiseError c (commandStatus c i) b := by
  cases i with
  | intPack n size =>
    have hsize : c.S.admits size = false := by simpa [commandStatus] using h
    rw [blockExec, intPackResponse_of_not_admits hsize, commandStatus, hsize]
    rfl
  | intUnpack len lanes =>
    cases hlen : c.lmax.admits len with
    | false =>
      rw [blockExec, intUnpackResponse_of_not_admits hlen, commandStatus, hlen]
      rfl
    | true =>
      have hv : valueFits c (unpack (lanes.take len)) = false := by simpa [commandStatus, hlen] using h
      rw [blockExec, intUnpackResponse_of_outOfRange hlen (by rw [outOfRange_eq, hv]; rfl), commandStatus, hlen, hv]
      rfl
  | crcInit => exact absurd rfl h
  | crcAppend len lanes =>
    have hlen : c.lmax.admits len = false := by simpa [commandStatus] using h
    rw [blockExec, crcAppendReply_of_not_admits hlen, commandStatus, hlen]
    rfl
  | crcFinal => exact absurd rfl h

theorem blockExec_status (c : Config) (i : Instr) (b : Block) :
    (blockExec c i b).response.status = commandStatus c i := by
  by_cases h : commandStatus c i = .ok
  · rw [blockExec_status_of_ok b h, h]
  · rw [blockExec_of_error b h, raiseError_response, valueResponse_status]

theorem status_of_exec {i : Instr} {s t : State} {x : Response} (h : exec i s = .next t)
    (hx : t.responses = s.responses ++ [x]) : x.status = commandStatus s.cfg i := by
  rw [response_of_exec h hx, blockExec_status]

/-! ## Each error, and the commands that raise it -/

/-- No command raises `ERR_ILLEGAL` (R112). -/
theorem commandStatus_ne_errIllegal (c : Config) (i : Instr) : commandStatus c i ≠ .errIllegal := by
  cases i <;> simp [commandStatus, ite_eq_iff]

/-- The commands that raise `ERR_OPERAND` (R113): an operand is above its bound. -/
theorem commandStatus_eq_errOperand_iff (c : Config) (i : Instr) :
    commandStatus c i = .errOperand ↔
      (∃ n size, i = .intPack n size ∧ c.S.admits size = false) ∨
        (∃ len lanes, i = .intUnpack len lanes ∧ c.lmax.admits len = false) ∨
        (∃ len lanes, i = .crcAppend len lanes ∧ c.lmax.admits len = false) := by
  cases i <;> simp [commandStatus, ite_eq_iff]

/-- The commands that raise `ERR_RANGE` (R116): INT.UNPACK within `LMAX`, on a value that its lane does not hold. -/
theorem commandStatus_eq_errRange_iff (c : Config) (i : Instr) :
    commandStatus c i = .errRange ↔
      ∃ len lanes, i = .intUnpack len lanes ∧ c.lmax.admits len = true ∧
        valueFits c (unpack (lanes.take len)) = false := by
  cases i <;> simp [commandStatus, ite_eq_iff]

section
variable {c : Config}

/-- With `S` unbounded so is `LMAX` (R7). -/
theorem lmax_of_S_omega (h : c.S = .omega) : c.lmax = .omega := by
  rw [Config.lmax, h]
  cases c.K <;> rfl

/-- The value lane holds every value but those from `2^(8*K)` up (R6). -/
theorem valueFits_eq_false_iff {v : Nat} : valueFits c v = false ↔ ∃ K, c.K = .finite K ∧ 2 ^ (8 * K) ≤ v := by
  unfold valueFits
  cases c.K <;> simp

/-- A value that needs more than `K` bytes has been read from more than `K` lanes. -/
theorem lt_len_of_pow_le_unpack {K len : Nat} {lanes : List Byte} (h : 2 ^ (8 * K) ≤ unpack (lanes.take len)) :
    K < len := by
  have hlt : 256 ^ K < 256 ^ (lanes.take len).length := (pow_256 K).trans_le h |>.trans_lt (unpack_lt _)
  exact ((Nat.pow_lt_pow_iff_right (by decide)).1 hlt).trans_le (List.length_take_le len lanes)

/-- More than `K` lanes there are only with `S > K` (R7, R116). -/
theorem S_above_K_of_lmax_admits {K len : Nat} (hK : c.K = .finite K) (hlen : c.lmax.admits len = true)
    (h : K < len) : c.S.admits K = true ∧ c.S ≠ .finite K := by
  rw [Config.lmax, hK, Bound.join_admits] at hlen
  cases hS : c.S with
  | finite S =>
    simp only [hS, Bound.admits, Bool.or_eq_true, decide_eq_true_eq, ne_eq, Bound.finite.injEq] at hlen ⊢
    omega
  | omega => simp [Bound.admits]

end

/-! ## The status of a request -/

/-- The status that a request is answered with, decoded in the order of R54; `blockCommand_status` ties it to the block. -/
def requestStatus (c : Config) (r : Request) : Status :=
  match decode r with
  | .ok i => commandStatus c i
  | .error _ => .errIllegal

section
variable {c : Config} {r : Request} {i : Instr}

theorem requestStatus_of_decode (h : decode r = .ok i) : requestStatus c r = commandStatus c i := by
  rw [requestStatus, h]

theorem requestStatus_of_decode_error {e : DecodeError} (h : decode r = .error e) :
    requestStatus c r = .errIllegal := by
  rw [requestStatus, h]

end

/-- A request that is answered with an error, reserved op code or not, does what every error does (R114). -/
theorem blockCommand_of_error {c : Config} {r : Request} (b : Block) (h : requestStatus c r ≠ .ok) :
    blockCommand c r b = raiseError c (requestStatus c r) b := by
  cases hd : decode r with
  | error e => simp [blockCommand, requestStatus, hd]
  | ok i =>
    rw [requestStatus_of_decode hd] at h ⊢
    simpa [blockCommand, hd] using blockExec_of_error b h

theorem blockCommand_status (c : Config) (r : Request) (b : Block) :
    (blockCommand c r b).response.status = requestStatus c r := by
  cases hd : decode r with
  | error e => simp [blockCommand, requestStatus, hd]
  | ok i => simp [blockCommand, requestStatus, hd, blockExec_status]

/-- The status as the tests of R115 on the fields of the request, one after the other. -/
theorem requestStatus_eq (c : Config) (r : Request) :
    requestStatus c r =
      if r.op = 0 ∨ r.op = 6 ∨ r.op = 7 then Status.errIllegal
      else if (r.op = 1 ∧ c.S.admits r.size = false) ∨
          ((r.op = 2 ∨ r.op = 4) ∧ c.lmax.admits r.len = false) then Status.errOperand
      else if r.op = 2 ∧ valueFits c (unpack (r.lanes.take r.len)) = false then Status.errRange
      else Status.ok := by
  rcases decode_cases r with ⟨h, e⟩ | ⟨h, e⟩ | ⟨h, e⟩ | ⟨h, e⟩ | ⟨h, e⟩ | ⟨h, e⟩
  · rw [requestStatus_of_decode_error e, if_pos h]
  all_goals rw [requestStatus_of_decode e, commandStatus]
  · cases hsize : c.S.admits r.size <;> simp [h]
  · rw [List.take_take, min_self]
    cases hlen : c.lmax.admits r.len with
    | false => simp [h]
    | true => cases hv : valueFits c (unpack (r.lanes.take r.len)) <;> simp [h]
  · simp [h]
  · cases hlen : c.lmax.admits r.len <;> simp [h]
  · simp [h]

/-- `ERR_ILLEGAL` is the answer on a reserved op code and on no other (R112). -/
theorem requestStatus_eq_errIllegal_iff (c : Config) (r : Request) :
    requestStatus c r = .errIllegal ↔ r.op = 0 ∨ r.op = 6 ∨ r.op = 7 := by
  rw [requestStatus_eq]
  split_ifs with h
  · exact iff_of_true rfl h
  all_goals exact iff_of_false nofun h

/-! ## The step on a request -/

/-- A step on a request that answers next is the block's own command, with its response as the one added. -/
theorem step_command_next {s t : State} {r : Request} {rest : List Input} {x : Response}
    (hin : s.inputs = .command r :: rest) (h : step s = .next t) (hx : t.responses = s.responses ++ [x]) :
    t = afterInput (.command r) { s with inputs := rest } ∧ x = (blockCommand s.cfg r s.toBlock).response := by
  rcases step_next_cases h with ⟨hnil, -⟩ | ⟨i, rest', hin', -, rfl⟩
  · cases hin.symm.trans hnil
  · obtain ⟨rfl, rfl⟩ := List.cons.inj (hin'.symm.trans hin)
    exact ⟨rfl, by simpa using hx.symm⟩

/-! ## The statements -/

/-- Settles O42: the status of a request is `ERR_ILLEGAL` on the reserved op codes, and that of a command never is. -/
theorem illegalExactlyOnReservedOpcodes : Obligations.IllegalExactlyOnReservedOpcodes := by
  refine ⟨fun s t r rest x hin hstep hx => ?_, fun i s t x h hx => ?_⟩
  · obtain ⟨-, rfl⟩ := step_command_next hin hstep hx
    rw [blockCommand_status]
    exact requestStatus_eq_errIllegal_iff s.cfg r
  · rw [status_of_exec h hx]
    exact commandStatus_ne_errIllegal s.cfg i

/-- Settles O43: the commands that raise `ERR_OPERAND`, the reference widths and bounds, and no bound to be above. -/
theorem operandErrorExactlyAboveTheBounds : Obligations.OperandErrorExactlyAboveTheBounds := by
  refine ⟨fun i s t x h hx => ?_, fun v => ?_, fun i s t x hS h hx hop => ?_⟩
  · rw [status_of_exec h hx]
    exact commandStatus_eq_errOperand_iff s.cfg i
  · have hbits : fieldBits 8 = 4 := by decide
    simp [sizeFits, lenFits, Config.reference, Config.lmax, Bound.join, Bound.admits, hbits]
  · rw [status_of_exec h hx, commandStatus_eq_errOperand_iff, lmax_of_S_omega hS, hS] at hop
    simp [Bound.admits] at hop

/-- Settles O44: the value is out of range just when its lane does not hold it, and then more than `K` lanes were read. -/
theorem rangeErrorExactlyOnUndeliverableValues : Obligations.RangeErrorExactlyOnUndeliverableValues := by
  refine ⟨fun i s t x h hx => ?_, fun i s t x h hx hrange => ?_, fun len lanes s t x h hx hok => ?_⟩
  · simp only [status_of_exec h hx, commandStatus_eq_errRange_iff, valueFits_eq_false_iff, exists_and_left]
  · rw [status_of_exec h hx, commandStatus_eq_errRange_iff] at hrange
    obtain ⟨len, lanes, -, hlen, hv⟩ := hrange
    obtain ⟨K, hK, hle⟩ := valueFits_eq_false_iff.1 hv
    exact ⟨K, hK, S_above_K_of_lmax_admits hK hlen (lt_len_of_pow_le_unpack hle)⟩
  · obtain ⟨-, hval, -⟩ := (undrivenFieldsAreZero _ s t x h hx).2 hok
    exact hval

/-- Settles O45: the step is the block's own command, whose status is that of the request. -/
theorem statusFollowsTheDecodeOrder : Obligations.StatusFollowsTheDecodeOrder := by
  intro s r rest hin hp
  refine ⟨_, _, step_of_sendable (i := .command r) hin hp, afterInput_responses .., ?_⟩
  exact (blockCommand_status s.cfg r s.toBlock).trans (requestStatus_eq s.cfg r)

/-- Settles O46: an error keeps the block and answers zero in every result field. -/
theorem errorsLeaveTheStateAlone : Obligations.ErrorsLeaveTheStateAlone := by
  intro s t r rest x hin hstep hx herr
  obtain ⟨rfl, rfl⟩ := step_command_next hin hstep hx
  rw [blockCommand_status] at herr
  have hraise := blockCommand_of_error s.toBlock herr
  rw [hraise, raiseError_response]
  refine ⟨?_, rfl, rfl, valueResponse_lanes_length _ _ _, valueResponse_lanes_zero _ _ _⟩
  simp [afterInput, hraise]

end Sys2Proof.Machine
end

section
/-!
SUPPORT. A whole run (spec/70_reset_and_hazards.md R146): as many steps as the host has inputs are the block's own run over them,
which answers every command and keeps `crc` the fold of the message (spec/20_memory.md R40).
-/

namespace Sys2Proof.Machine

open Sys2Proof

/-! ## The block's run -/

/-- The block's run answers as many times as there are commands in the list: a reset gets no response (R130). -/
theorem blockRun_responses_length (c : Config) (inputs : List Input) (b : Block) :
    (blockRun c inputs b).2.length = (inputs.filter Input.answered).length := by
  induction inputs generalizing b with
  | nil => rfl
  | cons i rest ih =>
    rw [blockRun_cons, List.length_append, ih]
    cases i with
    | reset cut => exact Nat.zero_add _
    | command r => exact Nat.add_comm 1 _

/-- The block's run leaves the register the fold of the message as the whole list changes it. -/
theorem blockRun_tracks (c : Config) (inputs : List Input) {b : Block} {m : List Byte} (h : b.crc = fold crcStart m) :
    (blockRun c inputs b).1.crc = fold crcStart (messageAfter c m inputs) := by
  induction inputs generalizing b m with
  | nil => exact h
  | cons i rest ih => exact ih (blockStep_tracks h c i)

/-! ## The machine's run -/

/-- The state after every input of the list: the block has made its own run, and its responses stand after all earlier ones. -/
def afterInputs (s : State) : State :=
  ⟨(blockRun s.cfg s.inputs s.toBlock).1,
    { cfg := s.cfg, inputs := [], responses := s.responses ++ (blockRun s.cfg s.inputs s.toBlock).2 }⟩

theorem afterInputs_of_nil {s : State} (h : s.inputs = []) : afterInputs s = s := by
  obtain ⟨b, cfg, inputs, responses⟩ := s
  obtain rfl : inputs = [] := h
  simp [afterInputs]

/-- The list is worked off from its oldest input. -/
theorem afterInputs_of_cons {s : State} {i : Input} {rest : List Input} (h : s.inputs = i :: rest) :
    afterInputs s = afterInputs (afterInput i { s with inputs := rest }) := by
  simp [afterInputs, h, blockRun_cons]

/-- A run makes its first step, and then the rest of the run from there. -/
theorem run_succ_of_step {M : Host.Core} {s t : M.State} (h : M.step s = .next t) (k : Nat) :
    M.run (k + 1) s = M.run k t := by
  rw [Host.Core.run, h]

/-- With every input one the host can send, as many steps as there are inputs work the list off. -/
theorem run_of_sendable {inputs : List Input} {s : State} (hin : s.inputs = inputs)
    (hs : ∀ i ∈ inputs, i.Sendable s.cfg) : core.run inputs.length s = .next (afterInputs s) := by
  induction inputs generalizing s with
  | nil => rw [afterInputs_of_nil hin]; rfl
  | cons i rest ih =>
    obtain ⟨hi, hrest⟩ := List.forall_mem_cons.mp hs
    calc core.run (rest.length + 1) s
      _ = core.run rest.length (afterInput i { s with inputs := rest }) := run_succ_of_step (M := core) (step_of_sendable hin hi) _
      _ = .next (afterInputs (afterInput i { s with inputs := rest })) := ih rfl hrest
      _ = .next (afterInputs s) := by rw [afterInputs_of_cons hin]

/-! ## The statements -/

/-- Settles O59: the state after the list is defined by the block's own run. -/
theorem runIsTheBlockRun : Obligations.RunIsTheBlockRun := by
  intro s hs
  exact run_of_sendable rfl hs

/-- Settles O57: the machine's run is the block's own, which answers every command and tracks the message. -/
theorem everyRunAnswersEveryCommand : Obligations.EveryRunAnswersEveryCommand := by
  intro s m hcrc hs
  refine ⟨afterInputs s, (blockRun s.cfg s.inputs s.toBlock).2, run_of_sendable rfl hs, rfl, rfl, ?_, ?_, rfl⟩
  · exact blockRun_responses_length s.cfg s.inputs s.toBlock
  · exact blockRun_tracks s.cfg s.inputs hcrc

end Sys2Proof.Machine
end

section
/-!
SUPPORT. Commands, requests and packed words (spec/30_encoding.md sections 1 and 2): the decoder takes back what the encoder
makes of a well-formed command, the packed word and the request read from it determine each other, and the fields are as wide as
their range needs.
-/

namespace Sys2Proof.Machine

open Sys2Proof

/-! ## Commands and requests -/

/-- The lanes of a well-formed format `B` command are the ones read back, also where `req_len` is above `LMAX` (R32, R52). -/
theorem take_onLanes_of_lanesRead {c : Config} {len : Nat} {lanes : List Byte} (h : lanes.length = lanesRead c len) :
    (onLanes c.lmax lanes).take len = lanes := by
  unfold lanesRead at h
  cases hm : c.lmax with
  | finite m =>
    simp only [hm] at h
    rcases Nat.le_total len m with hle | hle
    · rw [← h.trans (min_eq_left hle)]
      exact take_onLanes _ _
    · simp [onLanes, h, hle]
  | omega =>
    simp only [hm] at h
    rw [← h]
    exact take_onLanes _ _

/-- Settles O10: the op code chooses the command again, and the lanes read are those sent. -/
theorem decodeEncodeRoundTrip : Obligations.DecodeEncodeRoundTrip := by
  intro c i h
  cases i with
  | intPack n size => rfl
  | intUnpack len lanes =>
    simp only [Instr.wf, Bool.and_eq_true, decide_eq_true_eq] at h
    exact congrArg (Except.ok <| Instr.intUnpack len ·) (take_onLanes_of_lanesRead h.2)
  | crcInit => rfl
  | crcAppend len lanes =>
    simp only [Instr.wf, Bool.and_eq_true, decide_eq_true_eq] at h
    exact congrArg (Except.ok <| Instr.crcAppend len ·) (take_onLanes_of_lanesRead h.2)
  | crcFinal => rfl

/-- The port can carry the encoding of every well-formed command. -/
theorem encode_presentable {c : Config} {i : Instr} (h : i.wf c = true) : (encode c i).presentable c = true := by
  cases i with
  | intPack n size => exact Laws.EncodePresentable.intPack n size c h
  | intUnpack len lanes => exact Laws.EncodePresentable.intUnpack len lanes c h
  | crcInit => exact Laws.EncodePresentable.crcInit c h
  | crcAppend len lanes => exact Laws.EncodePresentable.crcAppend len lanes c h
  | crcFinal => exact Laws.EncodePresentable.crcFinal c h

/-- Settles O15: what a format reads are fields that the port can carry, and the lanes read are there. -/
theorem decodedCommandIsWellFormed : Obligations.DecodedCommandIsWellFormed := by
  intro c r i hp hd
  obtain ⟨hsize, hlen, hval, hcount⟩ := (presentable_iff c r).1 hp
  have hlanes := length_take_lanes hcount
  rcases decode_cases r with ⟨-, e⟩ | ⟨-, e⟩ | ⟨-, e⟩ | ⟨-, e⟩ | ⟨-, e⟩ | ⟨-, e⟩
  all_goals cases e.symm.trans hd
  · simp [Instr.wf, hval, hsize]
  · simp [Instr.wf, hlen, hlanes]
  · rfl
  · simp [Instr.wf, hlen, hlanes]
  · rfl

/-! ## The packed word and the request read from it -/

/-- The request that stands in a packed word; `ofWord_of_lt` ties it to the reader of words. -/
def wordRequest (K S w : Nat) : Request :=
  { op := BitVec.ofNat 3 w
    size := bitsAt w 3 (fieldBits S)
    len := bitsAt w (lenOffset S) (fieldBits (max K S))
    val := bitsAt w (valOffset K S) (8 * K)
    lanes := lanesAt w (laneOffset K S) (max K S) }

theorem ofWord_of_lt {K S w : Nat} (h : w < 2 ^ reqBits K S) :
    Request.ofWord { K := .finite K, S := .finite S } w = .ok (wordRequest K S w) :=
  if_pos h

theorem bitsAt_eq (w lo n : Nat) : bitsAt w lo n = w / 2 ^ lo % 2 ^ n := by
  rw [bitsAt, Nat.shiftRight_eq_div_pow]

theorem bitsAt_lt (w lo n : Nat) : bitsAt w lo n < 2 ^ n :=
  Nat.mod_lt _ (Nat.two_pow_pos n)

/-- A field and what stands above it make up what stands from the field on. -/
theorem bitsAt_add_above (w lo n : Nat) : bitsAt w lo n + 2 ^ n * (w / 2 ^ (lo + n)) = w / 2 ^ lo := by
  rw [bitsAt_eq, Nat.pow_add, ← Nat.div_div_eq_div_mul]
  exact Nat.mod_add_div _ _

/-- The lanes read from a word are the byte sequence whose number stands there. -/
theorem lanesAt_of_div {w lo n : Nat} {b : List Byte} (hn : b.length = n) (h : w / 2 ^ lo = lanesNumber b) :
    lanesAt w lo n = b := by
  subst hn
  apply List.ext_getElem?
  intro i
  rcases Nat.lt_or_ge i b.length with hi | hi
  · rw [lanesNumber_div b i hi, ← h, Nat.div_div_eq_div_mul, ← Nat.pow_add]
    simp [lanesAt, hi, Nat.shiftRight_eq_div_pow]
  · rw [List.getElem?_eq_none hi, List.getElem?_eq_none (by simpa using hi)]

section
variable {K S : Nat} {r : Request} (hp : r.presentable { K := .finite K, S := .finite S } = true)
include hp

/-- The packed word of a request holds that request. -/
theorem wordRequest_packedNumber : wordRequest K S (packedNumber K S r) = r := by
  obtain ⟨hsize, hlen, hval, hcount⟩ := presentable_finite_iff.1 hp
  obtain ⟨op, size, len, val, lanes⟩ := r
  simp only [wordRequest, bitsAt_eq, lenOffset, valOffset, laneOffset, Request.mk.injEq]
  refine ⟨BitVec.eq_of_toNat_eq ?_, ?_, ?_, ?_, ?_⟩
  · rw [BitVec.toNat_ofNat, packedNumber_mod_op]
  · rw [packedNumber_div_op, (numeral_bit_field hsize).1]
  · rw [packedNumber_div_size hsize, (numeral_bit_field hlen).1]
  · rw [packedNumber_div_len hsize hlen, (numeral_bit_field hval).1]
  · exact lanesAt_of_div hcount (packedNumber_div_val hsize hlen hval)

/-- The packed word of a request has no bit above its width. -/
theorem packedNumber_lt : packedNumber K S r < 2 ^ reqBits K S := by
  obtain ⟨hsize, hlen, hval, hcount⟩ := presentable_finite_iff.1 hp
  apply lt_two_pow_add
  rw [laneOffset, valOffset, lenOffset, packedNumber_div_val hsize hlen hval, ← hcount]
  exact lanesNumber_lt r.lanes

/-- Reading the packed word of a request gives the request back. -/
theorem ofWord_packedNumber :
    Request.ofWord { K := .finite K, S := .finite S } (packedNumber K S r) = .ok r := by
  rw [ofWord_of_lt (packedNumber_lt hp), wordRequest_packedNumber hp]

end

/-- What stands in a packed word is a request that the port can carry: each field has the bits of its own width. -/
theorem wordRequest_presentable (K S w : Nat) :
    (wordRequest K S w).presentable { K := .finite K, S := .finite S } = true :=
  presentable_finite_iff.2 ⟨bitsAt_lt _ _ _, bitsAt_lt _ _ _, bitsAt_lt _ _ _, lanesAt_length _ _ _⟩

/-- The packed word of the request that stands in a word is the word: the fields leave no bit out. -/
theorem packedNumber_wordRequest {K S w : Nat} (h : w < 2 ^ reqBits K S) :
    packedNumber K S (wordRequest K S w) = w := by
  have htop : w / 2 ^ laneOffset K S < 2 ^ (8 * max K S) :=
    Nat.div_lt_of_lt_mul (by rwa [← Nat.pow_add])
  have hlanes : lanesNumber (wordRequest K S w).lanes = w / 2 ^ laneOffset K S :=
    (lanesNumber_lanesAt _ _ _).trans (Nat.mod_eq_of_lt htop)
  have hop : (wordRequest K S w).op.toNat = bitsAt w 0 3 := BitVec.toNat_ofNat w 3
  have hval : (wordRequest K S w).val + 2 ^ (8 * K) * (w / 2 ^ laneOffset K S) = w / 2 ^ valOffset K S :=
    bitsAt_add_above _ _ _
  have hlen : (wordRequest K S w).len + 2 ^ fieldBits (max K S) * (w / 2 ^ valOffset K S) = w / 2 ^ lenOffset S :=
    bitsAt_add_above _ _ _
  have hsize : (wordRequest K S w).size + 2 ^ fieldBits S * (w / 2 ^ lenOffset S) = w / 2 ^ 3 :=
    bitsAt_add_above _ _ _
  rw [packedNumber, hlanes, hval, hlen, hsize, hop]
  exact (bitsAt_add_above w 0 3).trans (Nat.div_one w)

/-- Settles O11: the packed word of the encoded command holds the request it was made of, which decodes to the command. -/
theorem packedWordRoundTrip : Obligations.PackedWordRoundTrip := by
  intro K S i h
  have hp := encode_presentable h
  refine ⟨_, toWord_eq_packedNumber K S _, packedNumber_lt hp, ?_⟩
  rw [decodeWord, ofWord_packedNumber hp]
  exact decodeEncodeRoundTrip _ i h

/-- Settles O12: the other direction of the same correspondence. -/
theorem packedWordKeepsEveryBit : Obligations.PackedWordKeepsEveryBit := by
  intro K S w h
  refine ⟨_, ofWord_of_lt h, wordRequest_presentable K S w, ?_⟩
  rw [toWord_eq_packedNumber, packedNumber_wordRequest h]

/-- Settles O7: the reader and the decoder compute on each word. -/
theorem specWordsDecode : Obligations.SpecWordsDecode := by
  unfold Obligations.SpecWordsDecode
  decide

/-! ## The widths of the fields -/

/-- A field of at least one bit holds `m` just when it has `fieldBits m` bits or more. -/
theorem fieldBits_le_iff {m w : Nat} (hw : 1 ≤ w) : fieldBits m ≤ w ↔ m < 2 ^ w := by
  rcases Nat.eq_zero_or_pos m with rfl | hm
  · exact iff_of_true hw (Nat.two_pow_pos w)
  · rw [← Nat.log2_lt hm.ne', fieldBits, Nat.succ_le_iff]

/-- Settles O14: the widths that hold `m` are those from `fieldBits m` up, and from `clog 2 (m + 1)` up. -/
theorem fieldWidthsAreFewestBits : Obligations.FieldWidthsAreFewestBits := by
  intro m
  refine ⟨?_, lt_two_pow_fieldBits m, fun w hw => (fieldBits_le_iff hw).2⟩
  apply le_antisymm
  · rw [fieldBits_le_iff (le_max_left _ _), ← Nat.succ_le_iff, ← Nat.clog_le_iff_le_pow Nat.one_lt_two]
    exact le_max_right _ _
  · exact max_le (Nat.le_add_left 1 _)
      ((Nat.clog_le_iff_le_pow Nat.one_lt_two).2 (lt_two_pow_fieldBits m))

end Sys2Proof.Machine
end

section
/-!
SUPPORT. What a step does with the host's list (spec/70_reset_and_hazards.md, log entries 4, 5, 6 and 10): it waits, refuses
what the port cannot carry, runs the command of a table word, and resets.
-/

namespace Sys2Proof.Machine

open Sys2Proof

/-! ## Waiting and refusing -/

/-- Settles O4: there is no input to take. -/
theorem stepWaitsWhenNothingIsSent : Obligations.StepWaitsWhenNothingIsSent := by
  intro s h
  rw [step, takeInput, h]

/-- An input is handled, or it is one that the host cannot send and the port refuses it (log entry 4). -/
theorem handleInput_of_not_sendable {i : Input} {s : State} (h : ¬ i.Sendable s.cfg) :
    ∃ r, i = .command r ∧ r.presentable s.cfg = false ∧ handleInput i s = .refused .unpresentable := by
  cases i with
  | reset cut => exact absurd trivial h
  | command r =>
    have hp : r.presentable s.cfg = false := Bool.eq_false_of_not_eq_true h
    exact ⟨r, rfl, hp, by simp [handleInput, hp]⟩

/-- Settles O5: a step waits, or answers an input that the host can send, or refuses one that it cannot. -/
theorem stepStopsOnlyOnUnpresentableRequests : Obligations.StepStopsOnlyOnUnpresentableRequests := by
  intro s
  cases hin : s.inputs with
  | nil => simp [stepWaitsWhenNothingIsSent s hin]
  | cons i rest =>
    by_cases hs : i.Sendable s.cfg
    · rw [step_of_sendable hin hs]
      refine ⟨.inl ⟨_, rfl⟩, nofun, ?_⟩
      rintro ⟨r, rest', hr, hp⟩
      obtain ⟨rfl, -⟩ := List.cons.inj hr
      exact absurd (hp.symm.trans hs) Bool.false_ne_true
    · obtain ⟨r, rfl, hp, href⟩ := handleInput_of_not_sendable (s := { s with inputs := rest }) hs
      rw [step_of_inputs hin, href]
      exact ⟨.inr rfl, fun _ => ⟨r, rest, rfl, hp⟩, fun _ => rfl⟩

/-! ## The command of a table word -/

/-- A word that decodes is a packed word of its block: it has no bit above the width (R51). -/
theorem decode_wordRequest_of_decodeWord {K S w : Nat} {i : Instr}
    (h : decodeWord { K := .finite K, S := .finite S } w = .ok i) :
    Request.ofWord { K := .finite K, S := .finite S } w = .ok (wordRequest K S w) ∧
      decode (wordRequest K S w) = .ok i := by
  by_cases hw : w < 2 ^ reqBits K S
  · have hof := ofWord_of_lt hw
    rw [decodeWord, hof] at h
    exact ⟨hof, h⟩
  · simp [decodeWord, Request.ofWord, hw] at h

theorem decodeWord_of_decodeTableWord {nbits w : Nat} {i : Instr} (h : decodeTableWord nbits w = some i) :
    decodeWord Config.reference (w % 2 ^ nbits) = .ok i := by
  unfold decodeTableWord at h
  cases hd : decodeWord Config.reference (w % 2 ^ nbits) with
  | ok j => simpa [hd] using h
  | error e => simp [hd] at h

/-- Settles O6: the table word is the packed word of a request that the port can carry and that decodes to the command. -/
theorem tableWordRunsNext : Obligations.TableWordRunsNext := by
  intro s nbits w i hcfg h
  obtain ⟨hof, hd⟩ := decode_wordRequest_of_decodeWord (decodeWord_of_decodeTableWord h)
  have hr : tableRequest s.cfg nbits w = wordRequest 8 8 (w % 2 ^ nbits) := by
    rw [hcfg, tableRequest, Config.reference, hof]
  have hp : (wordRequest 8 8 (w % 2 ^ nbits)).presentable s.cfg = true := by
    rw [hcfg]
    exact wordRequest_presentable 8 8 _
  rw [State.withFetchWord, hr]
  exact stepRunsDecodedCommand _ _ s.inputs i rfl hp hd

/-! ## Reset -/

/-- Settles O1: reset is handled whatever the state is, and only writes the register. -/
theorem resetLeavesAllOnes : Obligations.ResetLeavesAllOnes :=
  ⟨rfl, fun _ _ _ hin => step_of_inputs hin⟩

/-- Settles O2: both write the start value, and only CRC.INIT delivers a response. -/
theorem resetAndCrcInitLeaveTheSameRegister : Obligations.ResetAndCrcInitLeaveTheSameRegister := by
  intro s t cut h
  cases execCrcInit_eq.symm.trans h
  exact ⟨rfl, rfl, rfl, by simp⟩

end Sys2Proof.Machine
end

section
/-!
SUPPORT. The integer side and the byte side of the INT unit against each other (spec/40_int_pack.md sections 1, 2 and 4): the
hexadecimal procedure (R72), the round trips (R81, R82), and parts of a packed field (spec/20_memory.md R36).
-/

namespace Sys2Proof.Machine

open Sys2Proof

/-! ## The hexadecimal procedure -/

/-- The last `len` hexadecimal digits of `n`, most significant first; the digits of R72 are those at `hexLength n`. -/
def hexFixed (len n : Nat) : List Nat :=
  (List.range len).map fun i => n / 16 ^ (len - 1 - i) % 16

theorem hexDigits_eq_hexFixed (n : Nat) : hexDigits n = hexFixed (hexLength n) n := rfl

/-- One more digit in front. -/
theorem hexFixed_succ (len n : Nat) : hexFixed (len + 1) n = n / 16 ^ len % 16 :: hexFixed len n := by
  unfold hexFixed
  rw [List.range_succ_eq_map, List.map_cons, List.map_map]
  congr 1
  apply List.map_congr_left
  intro i _
  have hplace : len - (i + 1) = len - 1 - i := by omega
  simp [hplace]

theorem pow_16_two_mul (L : Nat) : 16 ^ (2 * L) = 256 ^ L := by
  rw [Nat.pow_mul]

/-- Two hexadecimal digits in a row are one byte. -/
theorem byte_of_hex_pair (L n : Nat) :
    BitVec.ofNat 8 (16 * (n / 16 ^ (2 * L + 1) % 16) + n / 16 ^ (2 * L) % 16) = BitVec.ofNat 8 (n / 256 ^ L) := by
  apply BitVec.eq_of_toNat_eq
  rw [BitVec.toNat_ofNat, BitVec.toNat_ofNat, Nat.pow_succ, ← Nat.div_div_eq_div_mul, pow_16_two_mul]
  omega

/-- An even number of hexadecimal digits pairs up to half as many bytes. -/
theorem pairBytes_hexFixed (L n : Nat) : pairBytes (hexFixed (2 * L) n) = bigEndian L n := by
  induction L with
  | zero => rfl
  | succ L ih => rw [Nat.mul_succ, hexFixed_succ, hexFixed_succ, pairBytes, byte_of_hex_pair, ih, bigEndian_cons]

/-- A number has at most `L` hexadecimal digits just when it is below `16^L`. -/
theorem hexLength_le_iff {n L : Nat} (hL : 1 ≤ L) : hexLength n ≤ L ↔ n < 16 ^ L := by
  rw [hexLength, Nat.succ_le_iff]
  exact ⟨Nat.lt_pow_of_log_lt (by decide), Nat.log_lt_of_lt_pow' (Nat.pos_iff_ne_zero.1 hL)⟩

theorem lt_pow_hexLength (n : Nat) : n < 16 ^ hexLength n :=
  (hexLength_le_iff (Nat.le_add_left 1 _)).1 le_rfl

/-- There are half as many bytes as hexadecimal digits, rounded up. -/
theorem natlen_eq_half_hexLength (n : Nat) : natlen n = (hexLength n + 1) / 2 := by
  have hpos : 1 ≤ hexLength n := Nat.le_add_left 1 _
  have hbytes := natlen_pos n
  apply le_antisymm
  · rw [natlen_le_iff (by omega), ← pow_16_two_mul]
    exact lt_of_lt_of_le (lt_pow_hexLength n) (Nat.pow_le_pow_right (by decide) (by omega))
  · have hdigits : hexLength n ≤ 2 * natlen n := by
      rw [hexLength_le_iff (by omega), pow_16_two_mul]
      exact lt_pow_natlen n
    omega

/-- The padding of R72 makes the digits twice as many as the bytes. -/
theorem hexPadded_eq_hexFixed (n : Nat) : hexPadded n = hexFixed (2 * natlen n) n := by
  have hlen := natlen_eq_half_hexLength n
  unfold hexPadded
  split
  case isTrue hodd =>
    have hzero : n / 16 ^ hexLength n = 0 := Nat.div_eq_of_lt (lt_pow_hexLength n)
    rw [show 2 * natlen n = hexLength n + 1 by omega, hexFixed_succ, hzero, hexDigits_eq_hexFixed]
  case isFalse heven =>
    rw [show 2 * natlen n = hexLength n by omega, hexDigits_eq_hexFixed]

/-- Settles O17: the padded digits pair up to the bytes of the natural encoding. -/
theorem hexProcedureGivesNaturalEncoding : Obligations.HexProcedureGivesNaturalEncoding := by
  intro n
  rw [hexProcedure, hexPadded_eq_hexFixed, pairBytes_hexFixed, natbytes]

/-! ## The round trips -/

theorem unpack_pack (n size : Nat) : unpack (pack n size) = n := by
  rw [pack_eq_bigEndian]
  exact unpack_bigEndian _ _ (lt_of_lt_of_le (lt_pow_natlen n) (Nat.pow_le_pow_right (by decide) (le_max_right _ _)))

/-- Settles O20: the digits, however many zeros stand before them, have the value of the number. -/
theorem unpackOfPack : Obligations.UnpackOfPack := by
  intro n size
  refine ⟨unpack_pack n size, unpack_bigEndian _ _ (lt_pow_natlen n), ?_⟩
  rw [length_pack, max_eq_left_iff]

/-- Settles O21: the value of a byte sequence takes no more bytes than the sequence has, so packing pads it to just these. -/
theorem packOfUnpack : Obligations.PackOfUnpack := by
  refine ⟨fun b hb => ?_, rfl, by decide⟩
  rw [pack_eq_bigEndian, max_eq_left ((natlen_le_iff hb).2 (unpack_lt b)), bigEndian_unpack]

/-- Settles O22: the value is that of the first part shifted past the second, plus that of the second. -/
theorem mixedWidthsArePositional : Obligations.MixedWidthsArePositional := by
  intro b k hk
  have hlast : (b.drop (b.length - k)).length = k := by rw [List.length_drop, Nat.sub_sub_self hk]
  have hsplit := unpack_append (b.take (b.length - k)) (b.drop (b.length - k))
  rw [List.take_append_drop, hlast] at hsplit
  constructor
  · rw [← unpack_take_sub, Nat.sub_sub_self hk]
  · rw [hsplit, Nat.mul_add_mod_self_right, Nat.mod_eq_of_lt]
    exact (unpack_lt _).trans_eq (by rw [hlast])

/-! ## The commands -/

/-- Zero is padded to zeros only, and is itself one (R73). -/
theorem pack_zero {size : Nat} (h : 1 ≤ size) : pack 0 size = List.replicate size 0#8 := by
  have hlen : max size (natlen 0) = size := max_eq_left h
  rw [pack_eq_bigEndian, hlen]
  exact (bigEndian_add size 0 0 Nat.one_pos).trans (List.append_nil _)

theorem onLanes_replicate_zero (m : Bound) (k : Nat) : ∀ y ∈ onLanes m (List.replicate k 0#8), y = 0#8 := by
  cases m <;> simp [onLanes, List.mem_replicate]

/-- Settles O26: INT.PACK delivers `pack 0 size`. -/
theorem packOfZeroIsZeros : Obligations.PackOfZeroIsZeros := by
  intro size s hpos _ hsize
  refine ⟨pack_zero hpos, _, exec_intPack_pack hsize, rfl, ?_⟩
  rw [pack_zero hpos]
  exact ⟨List.length_replicate, onLanes_replicate_zero _ _⟩

/-- A length within `LMAX` fits its field, and all of its lanes are read (R32, R50). -/
theorem lenFits_and_lanesRead_of_admits {c : Config} {len : Nat} (h : c.lmax.admits len = true) :
    lenFits c len = true ∧ lanesRead c len = len := by
  unfold lenFits lanesRead
  cases hm : c.lmax with
  | finite m =>
    have hle : len ≤ m := by simpa [hm, Bound.admits] using h
    exact ⟨decide_eq_true (lt_of_le_of_lt hle (lt_two_pow_fieldBits m)), min_eq_left hle⟩
  | omega => exact ⟨rfl, rfl⟩

/-- A byte sequence within `LMAX` is the operand of a well-formed INT.UNPACK. -/
theorem wf_intUnpack_of_admits {c : Config} {b : List Byte} (h : c.lmax.admits b.length = true) :
    (Instr.intUnpack b.length b).wf c = true := by
  obtain ⟨hlen, hread⟩ := lenFits_and_lanesRead_of_admits h
  simp [Instr.wf, hlen, hread]

/-- Settles O29: the lanes that INT.PACK answers are `pack n size`, which fits `LMAX` and has the value `n`. -/
theorem packedResponseUnpacksToTheNumber : Obligations.PackedResponseUnpacksToTheNumber := by
  intro n size s t x hwf hn hsize h hx
  rw [exec_intPack_pack hsize] at h
  obtain ⟨rfl, rfl⟩ := next_deliver_inj h hx
  have hfit := lmax_admits_pack hwf hn hsize
  have hvalue : unpack ((pack n size).take (pack n size).length) = n := by rw [List.take_length, unpack_pack]
  rw [bytesResponse_len, show (bytesResponse s.cfg (pack n size)).lanes.take (pack n size).length = pack n size from
    take_onLanes _ _]
  refine ⟨wf_intUnpack_of_admits hfit, _, exec_intUnpack_of_fits hfit ?_, rfl, hvalue⟩
  rw [hvalue]
  exact hn

end Sys2Proof.Machine
end

section
/-!
SUPPORT. The table and the fold (spec/41_crc32.md sections 2, 3 and 5): the listed table is the one of the generation rule
(R91), the table fold is the bit-serial one (R93), and it is one-to-one in the register (R98).
-/

namespace Sys2Proof.Machine

open Sys2Proof

/-! ## The table -/

/-- The 256 listed entries, each against eight shift steps of its index (R91). -/
theorem tab_eq_shiftByte : ∀ i : Byte, tab i = shiftByte (i.setWidth 32) := by
  decide

/-- The table is linear over exclusive-or, as its generation rule is. -/
theorem tab_xor (i j : Byte) : tab (i ^^^ j) = tab i ^^^ tab j := by
  rw [tab_eq_shiftByte, tab_eq_shiftByte, tab_eq_shiftByte, BitVec.setWidth_xor, shiftByte_xor]

/-- A linear map that takes no other word to zero than zero is one-to-one. -/
theorem injective_of_xor {n m : Nat} {f : BitVec n → BitVec m} (hxor : ∀ u v, f (u ^^^ v) = f u ^^^ f v)
    (hzero : ∀ u, f u = 0#m → u = 0#n) {u v : BitVec n} (h : f u = f v) : u = v := by
  apply BitVec.xor_eq_zero_iff.1
  apply hzero
  rw [hxor, h, BitVec.xor_self]

/-- Settles O30: the two byte columns of the table are linear, so it is enough that only entry 0 is zero in either. -/
theorem tableFollowsGenerationRule : Obligations.TableFollowsGenerationRule := by
  refine ⟨tab_eq_shiftByte, fun i j => injective_of_xor (f := fun i => (tab i).extractLsb' 24 8) ?_ (by decide),
    fun i j => injective_of_xor (f := fun i => (tab i).extractLsb' 0 8) ?_ (by decide)⟩
  all_goals
    intro i j
    rw [tab_xor, BitVec.extractLsb'_xor]

/-! ## The fold of one byte -/

theorem shiftStep_of_even {d : Word32} (h : d.getLsbD 0 = false) : shiftStep d = d >>> 1 := by
  rw [shiftStep_eq, h]
  rfl

/-- Eight shifts of a register whose low byte is zero bring no polynomial in. -/
theorem shiftByte_of_low_byte_zero {d : Word32} (h : ∀ k, k < 8 → d.getLsbD k = false) : shiftByte d = d >>> 8 := by
  have hstep : ∀ k, k < 8 → shiftStep (d >>> k) = d >>> (k + 1) := by
    intro k hk
    rw [shiftStep_of_even (by simpa using h k hk), BitVec.shiftRight_add]
  have hfirst : shiftStep d = d >>> 1 := hstep 0 (by decide)
  simp [shiftByte, hfirst, hstep]

/-- The register and the byte, split into the index of the table and the bits above it. -/
theorem xor_byte_split (c : Word32) (x : Byte) :
    c ^^^ x.setWidth 32 = (c.extractLsb' 0 8 ^^^ x).setWidth 32 ^^^ ((c >>> 8) <<< 8) := by
  ext i hi
  rcases Nat.lt_or_ge i 8 with hlow | hhigh
  · simp [hi, hlow]
  · simp [hi, hhigh, Nat.not_lt.2 hhigh]

/-- Settles O32: the eight shifts turn the index into its table entry, and only move the bits above it down. -/
theorem bitSerialFoldAgrees : Obligations.BitSerialFoldAgrees := by
  intro c x
  have hhigh : shiftByte ((c >>> 8) <<< 8) = c >>> 8 := by
    rw [shiftByte_of_low_byte_zero (fun k hk => by simp [hk])]
    ext i hi
    simpa using BitVec.lt_of_getLsbD (x := c) (i := 8 + i)
  rw [bitSerialFold, xor_byte_split, shiftByte_xor, hhigh, foldb_eq, tab_eq_shiftByte, BitVec.xor_comm]

/-! ## The fold is one-to-one -/

/-- A shift that leaves zero had zero: the polynomial would have set the top bit, which the shift has cleared. -/
theorem eq_zero_of_shiftStep_eq_zero {d : Word32} (h : shiftStep d = 0#32) : d = 0#32 := by
  cases hlow : d.getLsbD 0 with
  | true =>
    rw [shiftStep_eq, if_pos hlow] at h
    have htop := congrArg (fun z : Word32 => z.getLsbD 31) h
    simp at htop
  | false =>
    rw [shiftStep_of_even hlow] at h
    ext i hi
    cases i with
    | zero => simpa using hlow
    | succ k =>
      have hbit := congrArg (fun z : Word32 => z.getLsbD k) h
      simpa [hi, Nat.add_comm 1 k] using hbit

theorem shiftStep_injective : Function.Injective shiftStep :=
  fun _ _ => injective_of_xor shiftStep_xor fun _ => eq_zero_of_shiftStep_eq_zero

theorem shiftByte_injective : Function.Injective shiftByte :=
  shiftStep_injective.iterate 8

theorem foldb_injective (x : Byte) : Function.Injective fun c => foldb c x := by
  intro c d h
  have hshift : shiftByte (c ^^^ x.setWidth 32) = shiftByte (d ^^^ x.setWidth 32) :=
    (bitSerialFoldAgrees c x).symm.trans (h.trans (bitSerialFoldAgrees d x))
  exact (BitVec.xor_left_inj _).1 (shiftByte_injective hshift)

/-- Settles O33, by induction along the bytes: no byte merges two registers. -/
theorem foldIsOneToOne : Obligations.FoldIsOneToOne := by
  intro b
  induction b with
  | nil => exact fun c d h => h
  | cons x b ih => exact fun c d h => foldb_injective x (ih _ _ h)

end Sys2Proof.Machine
end

section
/-!
SUPPORT. Lists of CRC commands (spec/30_encoding.md section 5, spec/41_crc32.md sections 5 and 7): appending a message in pieces
folds the whole of it, CRC.APPENDS cuts data into such pieces, and CRC32 answers the checksum.
-/

namespace Sys2Proof.Machine

open Sys2Proof

/-! ## Appending pieces -/

/-- Settles O36: the fold of no bytes is the register itself. -/
theorem appendOfNothingKeepsCrc : Obligations.AppendOfNothingKeepsCrc := by
  intro lanes s
  exact ⟨_, execCrcAppend_of_admits (admits_zero _), rfl⟩

theorem exec_appendPiece {s : State} {b : List Byte} (h : s.cfg.lmax.admits b.length = true) :
    exec (appendPiece b) s = .next (deliver (valueResponse s.cfg .ok 0) (setCrc (fold s.crc b) s)) := by
  rw [appendPiece, execCrcAppend_of_admits h, List.take_length]

/-- A list of commands in two parts goes on from where the first part ends (R40). -/
theorem execAll_append_of_next {first : List Instr} {s t : State} (h : execAll first s = .next t) (last : List Instr) :
    execAll (first ++ last) s = execAll last t := by
  induction first generalizing s with
  | nil =>
    cases h
    rfl
  | cons i first ih =>
    obtain ⟨c, x, hi⟩ := exec_shape i s
    rw [execAll_cons_of_next hi] at h
    rw [List.cons_append, execAll_cons_of_next hi, ih h]

/-- The state after the CRC.APPENDs of these pieces: one fold over all of them, and one answer without a result for each. -/
def afterAppends (pieces : List (List Byte)) (s : State) : State :=
  { s with
    crc := fold s.crc pieces.flatten
    responses := s.responses ++ List.replicate pieces.length (valueResponse s.cfg .ok 0) }

theorem afterAppends_nil (s : State) : afterAppends [] s = s := by
  simp [afterAppends]

theorem afterAppends_cons (b : List Byte) (pieces : List (List Byte)) (s : State) :
    afterAppends (b :: pieces) s
      = afterAppends pieces (deliver (valueResponse s.cfg .ok 0) (setCrc (fold s.crc b) s)) := by
  simp [afterAppends, deliver, setCrc, fold_append, List.replicate_succ]

/-- Pieces within `LMAX` are all appended. -/
theorem execAll_appendPieces {pieces : List (List Byte)} {s : State}
    (h : ∀ b ∈ pieces, s.cfg.lmax.admits b.length = true) :
    execAll (pieces.map appendPiece) s = .next (afterAppends pieces s) := by
  induction pieces generalizing s with
  | nil => rw [afterAppends_nil, List.map_nil, execAll]
  | cons b pieces ih =>
    obtain ⟨hb, hpieces⟩ := List.forall_mem_cons.1 h
    rw [List.map_cons, execAll_cons_of_next (exec_appendPiece hb), afterAppends_cons]
    exact ih hpieces

/-- Settles O39: the state after the appends is known whole. -/
theorem anyCutGivesTheSameCrc : Obligations.AnyCutGivesTheSameCrc := by
  intro pieces s h
  refine ⟨_, execAll_appendPieces h, rfl, rfl, rfl, _, rfl, List.length_replicate, fun x hx => ?_⟩
  rw [List.eq_of_mem_replicate hx, valueResponse_status]

/-! ## The slices of CRC.APPENDS -/

/-- The number of slices: one more than what is left after the first slice gives. -/
theorem ceil_div_step {len m : Nat} (hlen : 1 ≤ len) (hm : 1 ≤ m) :
    (len + m - 1) / m = (len - m + m - 1) / m + 1 := by
  rw [← Nat.add_div_right _ hm]
  rcases Nat.le_total m len with h | h
  · congr 1
    omega
  · have hone : (len + m - 1) / m = 1 := (Nat.div_eq_iff hm).2 (by omega)
    have hrest : (len - m + m - 1 + m) / m = 1 := (Nat.div_eq_iff hm).2 (by omega)
    rw [hone, hrest]

section
variable {fuel m : Nat} {data : List Byte}

/-- With fuel for every byte, the pieces are the slices in order (R65). -/
theorem cutInto_eq_slices (hm : 1 ≤ m) (hfuel : data.length ≤ fuel) :
    cutInto fuel m data
      = (List.range ((data.length + m - 1) / m)).map fun j => (data.drop (j * m)).take m := by
  have hnone : (0 + m - 1) / m = 0 := Nat.div_eq_of_lt (by omega)
  fun_induction cutInto fuel m data with
  | case1 data =>
    rw [Nat.le_zero.1 hfuel, hnone, List.range_zero, List.map_nil]
  | case2 fuel => rw [List.length_nil, hnone, List.range_zero, List.map_nil]
  | case3 fuel data hdata ih =>
    have hpos : 1 ≤ data.length := List.length_pos_iff.2 hdata
    have hrest : (data.drop m).length = data.length - m := List.length_drop
    rw [ih (by omega), hrest, ceil_div_step hpos hm, List.range_succ_eq_map, List.map_cons, List.map_map, Nat.zero_mul,
      List.drop_zero]
    congr 1
    apply List.map_congr_left
    intro j _
    simp only [Function.comp, List.drop_drop, Nat.succ_mul, Nat.add_comm m]

/-- With fuel for every byte, no byte is left out. -/
theorem flatten_cutInto (hm : 1 ≤ m) (hfuel : data.length ≤ fuel) : (cutInto fuel m data).flatten = data := by
  fun_induction cutInto fuel m data with
  | case1 data => rw [List.eq_nil_of_length_eq_zero (Nat.le_zero.1 hfuel), List.flatten_nil]
  | case2 fuel => rfl
  | case3 fuel data hdata ih =>
    have hpos : 1 ≤ data.length := List.length_pos_iff.2 hdata
    have hrest : (data.drop m).length = data.length - m := List.length_drop
    rw [List.flatten_cons, ih (by omega), List.take_append_drop]

/-- No piece is empty or above the size. -/
theorem length_of_mem_cutInto (hm : 1 ≤ m) : ∀ b ∈ cutInto fuel m data, 1 ≤ b.length ∧ b.length ≤ m := by
  fun_induction cutInto fuel m data with
  | case1 data => exact nofun
  | case2 fuel => exact nofun
  | case3 fuel data hdata ih =>
    have hpos : 1 ≤ data.length := List.length_pos_iff.2 hdata
    exact List.forall_mem_cons.2 ⟨by rw [List.length_take]; omega, ih⟩

end

/-- Settles O40: the number, the places and the lengths are those of the slices. -/
theorem appendsCutsIntoSlices : Obligations.AppendsCutsIntoSlices := by
  intro m data hm
  have hslices := cutInto_eq_slices hm (le_refl data.length)
  refine ⟨?_, fun j hj => ?_, flatten_cutInto hm le_rfl, length_of_mem_cutInto hm⟩
  · rw [messagePieces, hslices, List.length_map, List.length_range]
  · rw [messagePieces, hslices, List.getElem?_map, List.getElem?_range hj, Option.map_some]

/-! ## The checksum -/

/-- A legal block has four lanes or more (R6, R7). -/
theorem lmax_admits_four {c : Config} (hwf : c.wf = true) : c.lmax.admits 4 = true := by
  rw [Config.lmax, Bound.join_admits, Bool.or_eq_true]
  left
  cases hK : c.K with
  | finite k => simpa [Config.wf, hK, Bound.admits] using hwf
  | omega => rfl

/-- The pieces of a legal block are within `LMAX`, and together they are the data. -/
theorem messagePieces_of_wf {c : Config} (hwf : c.wf = true) (data : List Byte) :
    (∀ b ∈ messagePieces c.lmax data, c.lmax.admits b.length = true) ∧ (messagePieces c.lmax data).flatten = data := by
  have hfour := lmax_admits_four hwf
  cases hm : c.lmax with
  | finite m =>
    have hpos : 1 ≤ m := by
      rw [hm] at hfour
      exact le_trans (by decide) (of_decide_eq_true hfour)
    obtain ⟨-, -, hflat, hlength⟩ := appendsCutsIntoSlices m data hpos
    exact ⟨fun b hb => decide_eq_true (hlength b hb).2, hflat⟩
  | omega => cases data <;> simp [messagePieces, Bound.admits]

/-- The commands of CRC32 complete: CRC.INIT sets the register to the start value, the appends fold all of the data, and
CRC.FINAL answers the complement (R66, R103). -/
theorem execAll_crc32Commands {s : State} (hwf : s.cfg.wf = true) (data : List Byte) :
    execAll (crc32Commands s.cfg data) s
      = .next (deliver (valueResponse s.cfg .ok (crc32 data).toNat)
          (afterAppends (messagePieces s.cfg.lmax data) (deliver (valueResponse s.cfg .ok 0) (setCrc crcStart s)))) := by
  obtain ⟨hfit, hflat⟩ := messagePieces_of_wf hwf data
  rw [crc32Commands, crcAppends, execAll_cons_of_next execCrcInit_eq,
    execAll_append_of_next (execAll_appendPieces (s := deliver _ (setCrc crcStart s)) hfit), execAll_singleton,
    execCrcFinal_eq]
  simp [afterAppends, hflat, crc32]

/-- Settles O41: the answers and the register are those of the state that the commands end in. -/
theorem crc32CommandsComputeTheChecksum : Obligations.Crc32CommandsComputeTheChecksum := by
  refine ⟨fun s data hwf => ?_, by decide⟩
  obtain ⟨-, hflat⟩ := messagePieces_of_wf hwf data
  refine ⟨_, valueResponse s.cfg .ok 0 :: List.replicate (messagePieces s.cfg.lmax data).length (valueResponse s.cfg .ok 0),
    valueResponse s.cfg .ok (crc32 data).toNat, execAll_crc32Commands hwf data, ?_, rfl, rfl, ?_, ?_, rfl, rfl⟩
  · simp [afterAppends]
  · rw [List.length_cons, List.length_replicate]
  · exact congrArg (fold crcStart) hflat

end Sys2Proof.Machine
end

section
/-!
SUPPORT. The response port (spec/30_encoding.md section 3, spec/60_exceptions.md section 3): what a block answers is what its
port can carry (R31, R56, R58), where the packed word holds each field of it (R56, R57), and which commands answer `OK` (R117).
-/

namespace Sys2Proof.Machine

open Sys2Proof

/-! ## Every response can be delivered -/

/-- A byte sequence within `LMAX` can be delivered. -/
theorem bytesResponse_deliverable {c : Config} {b : List Byte} (h : c.lmax.admits b.length = true) :
    (bytesResponse c b).Deliverable c :=
  ⟨h, valueFits_zero c, length_onLanes _ _ h, onLanes_zero_above _ _, fun herr => absurd rfl herr⟩

/-- A response without a result can be delivered, an error or not: every result field is zero. -/
theorem valueResponse_zero_deliverable (c : Config) (st : Status) : (valueResponse c st 0).Deliverable c :=
  valueResponse_deliverable c st 0 (valueFits_zero c) fun _ => rfl

/-- A command of a legal block that some request stands for is answered with a response that can be delivered. -/
theorem blockExec_deliverable {c : Config} {i : Instr} (hwf : c.wf = true) (hi : i.wf c = true) (b : Block) :
    (blockExec c i b).response.Deliverable c := by
  by_cases hst : commandStatus c i = .ok
  case neg =>
    rw [blockExec_of_error b hst]
    exact valueResponse_zero_deliverable c _
  case pos =>
    cases i with
    | intPack n size =>
      have hn : valueFits c n = true := ((Bool.and_eq_true_iff ..).1 hi).1
      have hsize : c.S.admits size = true := by simpa [commandStatus] using hst
      rw [blockExec, keepBlock_response, intPackResponse_of_admits hsize, ← pack_eq_bigEndian]
      exact bytesResponse_deliverable (lmax_admits_pack hwf hn hsize)
    | intUnpack len lanes =>
      obtain ⟨hlen, hv⟩ : c.lmax.admits len = true ∧ valueFits c (unpack (lanes.take len)) = true := by
        simpa [commandStatus, ite_eq_iff] using hst
      rw [blockExec, keepBlock_response, intUnpackResponse_of_inRange hlen (by rw [outOfRange_eq, hv]; rfl)]
      exact valueResponse_deliverable c _ _ hv (absurd rfl)
    | crcInit => exact valueResponse_zero_deliverable c _
    | crcAppend len lanes =>
      have hlen : c.lmax.admits len = true := by simpa [commandStatus] using hst
      rw [blockExec, crcAppendReply_of_admits hlen]
      exact valueResponse_zero_deliverable c _
    | crcFinal => exact valueResponse_deliverable c _ _ (valueFits_word hwf _) (absurd rfl)

/-- So is every request that the port can carry: what it decodes to is well formed. -/
theorem blockCommand_deliverable {c : Config} {r : Request} (hwf : c.wf = true) (hr : r.presentable c = true)
    (b : Block) : (blockCommand c r b).response.Deliverable c := by
  unfold blockCommand
  cases hd : decode r with
  | error e => exact valueResponse_zero_deliverable c _
  | ok i => exact blockExec_deliverable hwf (decodedCommandIsWellFormed c r i hr hd) b

/-- Settles O53: a step adds no response but that of a request that the port can carry. -/
theorem stepKeepsResponsesDeliverable : Obligations.StepKeepsResponsesDeliverable := by
  rintro s t ⟨hwf, hold⟩ hstep
  obtain ⟨-, rfl⟩ | ⟨i, rest, -, hs, rfl⟩ := step_next_cases hstep
  · exact ⟨hwf, hold⟩
  · refine ⟨hwf, fun x hx => ?_⟩
    rcases List.mem_append.1 hx with hpast | hnew
    · exact hold x hpast
    · cases i with
      | reset cut => cases hnew
      | command r =>
        obtain rfl := List.mem_singleton.1 hnew
        exact blockCommand_deliverable hwf hs s.toBlock

/-- Settles O54: no response has been delivered yet. -/
theorem resetStateIsGood : Obligations.ResetStateIsGood :=
  ⟨rfl, nofun⟩

/-! ## The packed word of a response -/

/-- What the response port of a bounded block can carry, as bounds on the fields (R56). -/
theorem bounds_of_deliverable {K S : Nat} {x : Response} (h : x.Deliverable { K := .finite K, S := .finite S }) :
    x.len < 2 ^ fieldBits (max K S) ∧ x.val < 2 ^ (8 * K) ∧ x.lanes.length = max K S := by
  obtain ⟨hlen, hval, hcount, -⟩ := h
  have hle : x.len ≤ max K S := of_decide_eq_true hlen
  exact ⟨lt_of_le_of_lt hle (lt_two_pow_fieldBits _), of_decide_eq_true hval, hcount⟩

theorem Status.code_lt (st : Status) : st.code < 2 ^ 2 := by
  cases st <;> decide

/-- A packed response as its lowest field below all the others, and so on upwards (R56). -/
def packedResponse (K S : Nat) (x : Response) : Nat :=
  x.status.code + 2 ^ 2 * (x.len + 2 ^ fieldBits (max K S) * (x.val + 2 ^ (8 * K) * lanesNumber x.lanes))

theorem toWord_eq_packedResponse (K S : Nat) (x : Response) :
    x.toWord { K := .finite K, S := .finite S } = some (packedResponse K S x) := by
  simp only [Response.toWord, packedResponse, rspLaneOffset, rspValOffset, Nat.pow_add, Option.some.injEq]
  ring

section
variable {K S : Nat} {x : Response}

theorem packedResponse_div_status :
    packedResponse K S x / 2 ^ 2 = x.len + 2 ^ fieldBits (max K S) * (x.val + 2 ^ (8 * K) * lanesNumber x.lanes) :=
  (numeral_bit_field x.status.code_lt).2

variable (hlen : x.len < 2 ^ fieldBits (max K S)) (hval : x.val < 2 ^ (8 * K))
include hlen

theorem packedResponse_div_len :
    packedResponse K S x / 2 ^ (2 + fieldBits (max K S)) = x.val + 2 ^ (8 * K) * lanesNumber x.lanes := by
  rw [Nat.pow_add, ← Nat.div_div_eq_div_mul, packedResponse_div_status, (numeral_bit_field hlen).2]

include hval

theorem packedResponse_div_val :
    packedResponse K S x / 2 ^ (2 + fieldBits (max K S) + 8 * K) = lanesNumber x.lanes := by
  rw [Nat.pow_add, ← Nat.div_div_eq_div_mul, packedResponse_div_len hlen, (numeral_bit_field hval).2]

end

/-- Settles O49: each field is the remainder, modulo its own width, of what is left of the word above the lower fields. -/
theorem responseWordLayout : Obligations.ResponseWordLayout := by
  refine ⟨by decide, fun K S x hx => ?_, by decide⟩
  obtain ⟨hlen, hval, hcount⟩ := bounds_of_deliverable hx
  have above := packedResponse_div_val hlen hval
  refine ⟨packedResponse K S x, toWord_eq_packedResponse K S x, (numeral_bit_field x.status.code_lt).1, ?_, ?_,
    fun i hi => ?_, ?_⟩
  · rw [packedResponse_div_status, (numeral_bit_field hlen).1]
  · rw [packedResponse_div_len hlen, (numeral_bit_field hval).1]
  · rw [Nat.pow_add _ _ (8 * i), ← Nat.div_div_eq_div_mul, above]
    exact lanesNumber_div x.lanes i (hcount ▸ hi)
  · apply lt_two_pow_add
    rw [above, ← hcount]
    exact lanesNumber_lt x.lanes

/-! ## What is not an error -/

/-- The value of at most `K` bytes fits its lane (R6). -/
theorem valueFits_unpack {c : Config} {b : List Byte} (h : c.K.admits b.length = true) :
    valueFits c (unpack b) = true := by
  cases hK : c.K with
  | finite k =>
    rw [hK] at h
    exact (valueFits_of_finite hK).2
      (lt_of_lt_of_le (unpack_lt b) (Nat.pow_le_pow_right (by decide) (of_decide_eq_true h)))
  | omega => rw [valueFits, hK]

/-- Leading zeros before a value that fits its lane are no error (R80). -/
theorem commandStatus_intUnpack_leading_zeros {c : Config} {k : Nat} {b : List Byte} (hK : c.K.admits b.length = true)
    (hlen : c.lmax.admits (k + b.length) = true) :
    commandStatus c (.intUnpack (k + b.length) (List.replicate k 0#8 ++ b)) = .ok := by
  have hv : valueFits c (unpack (List.replicate k 0#8 ++ b)) = true := by
    rw [unpack_replicate_zero_append]
    exact valueFits_unpack hK
  have htake : (List.replicate k 0#8 ++ b).take (k + b.length) = List.replicate k 0#8 ++ b :=
    List.take_of_length_le (by simp)
  rw [commandStatus, if_pos hlen, htake, if_pos hv]

/-- A command without an error completes and its one response says `OK`. -/
theorem exec_ok_of_commandStatus {i : Instr} {s : State} (h : commandStatus s.cfg i = .ok) :
    ∃ t x, exec i s = .next t ∧ t.responses = s.responses ++ [x] ∧ x.status = .ok :=
  ⟨_, _, exec_eq_settle i s, rfl, blockExec_status_of_ok s.toBlock h⟩

/-- Settles O47: none of these commands meets a test of R115. -/
theorem legalCommandsAnswerOk : Obligations.LegalCommandsAnswerOk := by
  refine ⟨fun i s h => exec_ok_of_commandStatus ?_, fun s => ⟨admits_zero _, admits_zero _⟩, fun s len lanes hlen => ?_⟩
  · rcases h with ⟨n, size, rfl, hsize⟩ | ⟨k, b, rfl, hK, hlen⟩ | ⟨len, lanes, rfl, hlen⟩ | rfl | rfl
    · exact if_pos hsize
    · exact commandStatus_intUnpack_leading_zeros hK hlen
    · exact if_pos hlen
    · rfl
    · rfl
  · have hzero : (valueResponse s.cfg .ok 0).status = .ok := rfl
    have hfinal : (valueResponse s.cfg .ok (~~~ s.crc).toNat).status = .ok := rfl
    rw [execAll_cons_of_next execCrcFinal_eq, execAll_cons_of_next execCrcFinal_eq, execAll_singleton,
      execCrcAppend_of_admits (s := deliver _ (deliver _ s)) hlen]
    exact ⟨_, _, _, _, rfl, by simp, hfinal, hfinal, hzero⟩

end Sys2Proof.Machine
end
